-- ==== Sys2Proof/Word.lean ====
section
/-! DEFINITION. The word types of the datapath (spec 00_scope.md R7): u8, u32, u64, the ordered pair of two u64, and the
four u64 of a 256-bit result. -/

namespace Sys2Proof

/-- `u8`. -/
abbrev Byte := BitVec 8

/-- `u32`. -/
abbrev Word32 := BitVec 32

/-- `u64`. -/
abbrev Word64 := BitVec 64

/-- A 128-bit value: "an ordered pair of 64-bit words (low, high)" (R7, R12). -/
structure Pair where
  lo : Word64
  hi : Word64
deriving DecidableEq, Repr, Inhabited

/-- Four u64 words: RES0 to RES3 (R31), or `result[0]` to `result[3]` of the CRC mixer (R12). -/
structure Quad where
  r0 : Word64
  r1 : Word64
  r2 : Word64
  r3 : Word64
deriving DecidableEq, Repr, Inhabited

/-- Four zero words: what every completion with a cause other than OK writes (60_exceptions.md R270). -/
def Quad.zero : Quad := ⟨0, 0, 0, 0⟩

end Sys2Proof
end

