-- ==== Sys2Proof/Syntax.lean ====
section
/-! DEFINITION. The commands: one constructor per row of spec/opcode_table.json (30_encoding.md R83). A command carries no
operand field; its operands are the latched registers (R84). -/

namespace Sys2Proof

/-- The ten commands (R83). -/
inductive Instr where
  /-- `HASH32`, OP 0x01: 41_hash32.md R150. -/
  | hash32
  /-- `HASH64`, OP 0x02: 42_hash64.md R170. -/
  | hash64
  /-- `HASH64_SEED`, OP 0x03: 42_hash64.md R171. -/
  | hash64Seed
  /-- `HASH64_SEEDS`, OP 0x04: 42_hash64.md R172. -/
  | hash64Seeds
  /-- `HASH128`, OP 0x05: 43_hash128.md R200. -/
  | hash128
  /-- `HASH128_SEED`, OP 0x06: 43_hash128.md R201. -/
  | hash128Seed
  /-- `FOLD128`, OP 0x07: 44_fold128.md R221. -/
  | fold128
  /-- `HASHCRC128`, OP 0x08: 45_crc.md R240. -/
  | hashcrc128
  /-- `HASHCRC128_SEED`, OP 0x09: 45_crc.md R241. -/
  | hashcrc128Seed
  /-- `HASHCRC256`, OP 0x0A: 45_crc.md R242. -/
  | hashcrc256
deriving DecidableEq, Repr

end Sys2Proof
end

