-- ==== Sys2Proof/WellFormed.lean ====
section
/-! DEFINITION. When a command exists on a block: the CRC commands exist only where `HAS_CRC` = 1 (45_crc.md R230). A
command has no other part that could be ill formed. -/

namespace Sys2Proof

/-- The CRC-assisted commands, OPs 0x08 to 0x0A (30_encoding.md R83). -/
def Instr.usesCrc : Instr → Bool
  | .hash32 => false
  | .hash64 => false
  | .hash64Seed => false
  | .hash64Seeds => false
  | .hash128 => false
  | .hash128Seed => false
  | .fold128 => false
  | .hashcrc128 => true
  | .hashcrc128Seed => true
  | .hashcrc256 => true

/-- Every command but FOLD128 reads the input window (30_encoding.md R86). -/
def Instr.readsWindow : Instr → Bool
  | .hash32 => true
  | .hash64 => true
  | .hash64Seed => true
  | .hash64Seeds => true
  | .hash128 => true
  | .hash128Seed => true
  | .fold128 => false
  | .hashcrc128 => true
  | .hashcrc128Seed => true
  | .hashcrc256 => true

/-- The command exists on a block with this `HAS_CRC`. -/
def Instr.wellFormed (hasCrc : Bool) (i : Instr) : Bool := !i.usesCrc || hasCrc

end Sys2Proof
end

