-- ==== Sys2Proof/Decode.lean ====
section
/-! DEFINITION. Format C, the command word (30_encoding.md R80 to R83, R88): OP in bits 7:0, RSVD in bits 63:8. The decoder
is total on 64-bit words and rejects by name; the encoder is written from the same table. -/

namespace Sys2Proof

/-- Why a word names no command (30_encoding.md R88), in the order the decoder asks. -/
inductive Illegal where
  /-- Bits 63:8 are not all 0. -/
  | reservedField
  /-- OP is 0x00 or 0x0B to 0xFF. -/
  | reservedOp
  /-- OP is 0x08, 0x09 or 0x0A and `HAS_CRC` = 0. -/
  | crcAbsent
deriving DecidableEq, Repr

/-- What a command word decodes to: "exactly one command or ILLEGAL" (R82). -/
inductive Decoded where
  | command (i : Instr)
  | illegal (why : Illegal)
deriving DecidableEq, Repr

/-- The OP field, bits 7:0 (R81). -/
def opField (v : Word64) : Byte := v.extractLsb' 0 8

/-- The RSVD field, bits 63:8 (R81). -/
def rsvdField (v : Word64) : BitVec 56 := v.extractLsb' 8 56

/-- The opcode map (R83). -/
def instrOfOp (op : Byte) : Option Instr :=
  if op = 0x01 then some .hash32
  else if op = 0x02 then some .hash64
  else if op = 0x03 then some .hash64Seed
  else if op = 0x04 then some .hash64Seeds
  else if op = 0x05 then some .hash128
  else if op = 0x06 then some .hash128Seed
  else if op = 0x07 then some .fold128
  else if op = 0x08 then some .hashcrc128
  else if op = 0x09 then some .hashcrc128Seed
  else if op = 0x0A then some .hashcrc256
  else none

/-- `decode(v)` (R82), with `HAS_CRC` as its argument. -/
def decode (hasCrc : Bool) (v : Word64) : Decoded :=
  if rsvdField v ≠ 0 then .illegal .reservedField
  else
    match instrOfOp (opField v) with
    | none => .illegal .reservedOp
    | some i => if i.wellFormed hasCrc then .command i else .illegal .crcAbsent

/-- The OP value of each command (R83). -/
def Instr.op : Instr → Byte
  | .hash32 => 0x01
  | .hash64 => 0x02
  | .hash64Seed => 0x03
  | .hash64Seeds => 0x04
  | .hash128 => 0x05
  | .hash128Seed => 0x06
  | .fold128 => 0x07
  | .hashcrc128 => 0x08
  | .hashcrc128Seed => 0x09
  | .hashcrc256 => 0x0A

/-- The command word: RSVD = 0 above OP (R81). -/
def encode (i : Instr) : Word64 := ((0 : BitVec 56) ++ i.op).setWidth 64

/-- The command of an opcode-table word. The table lists the commands of a block with `HAS_CRC` = 1, so the decoder is asked
for that block (log 14). A word that does not fit the one 64-bit command word is refused. -/
def decodeTableWord (nbits w : Nat) : Option Instr :=
  if nbits ≤ 64 ∧ w < 2 ^ 64 then
    match decode true (BitVec.ofNat 64 w) with
    | .command i => some i
    | .illegal _ => none
  else none

end Sys2Proof
end

