-- ==== Sys2Proof/Config.lean ====
section
/-! DEFINITION. What is fixed for one instance of the block (spec 00_scope.md R6), and the free values of the spec.

`Params` holds the parameters that are plain data: the spec calls them model arguments, and State carries them in a field
that no step changes (log 1). The opaque constants are the parameters and values of which nothing may be known. -/

namespace Sys2Proof

/-- A range of source-memory addresses, both ends inside it. -/
structure AddrRange where
  first : Word64
  last : Word64
deriving DecidableEq, Repr

/-- The parameters of one block instance (00_scope.md R6). -/
structure Params where
  /-- `HAS_CRC`: the CRC-assisted commands exist (45_crc.md R230). -/
  hasCrc : Bool
  /-- The upper 56 bits of `REG_BASE`, which is 0x100-aligned (20_memory.md R60). DESIGN CHOICE: the spec gives system
  addresses no width (93_implementation_defined.md U12), and the model takes 64 bits (log 23). -/
  regPage : BitVec 56
  /-- `readable`: the addresses that answer a read (20_memory.md R51), as a list of ranges. -/
  readable : List AddrRange
  /-- The addresses whose reads have side effects (20_memory.md R59, 93_implementation_defined.md U1). -/
  sideEffecting : List AddrRange
deriving DecidableEq, Repr

/-- The instance `State.reset` describes (log 2): `HAS_CRC` = 0 is the spec's portable default (45_crc.md R244).
DESIGN CHOICE, unsafe: the window at 0, every address readable, no read with side effects. -/
def Params.default : Params :=
  { hasCrc := false
    regPage := 0
    readable := [⟨0, BitVec.allOnes 64⟩]
    sideEffecting := [] }

/-- A *draw*: a free 64-bit value "under no law" (60_exceptions.md R269). State.draws numbers the draws. No body: nothing
can be proved of a draw (log 7). -/
opaque Config.freeWord : Nat → Word64

/-- What a fetch at an offset outside its view would give. The spec excludes such a fetch (20_memory.md R56) and gives it no
value, so it is free (log 17). -/
opaque Config.byteOutsideView : Nat → Byte

/-- `CRC256`: "a total function from a byte sequence to four u64 words", of which only determinism, confinement to its
argument and totality may be assumed (45_crc.md R232). All three are its type; its values are open (log 8). -/
opaque Config.crc256 : List Byte → Quad

end Sys2Proof
end

