-- ==== Sys2Proof/Machine/State.lean ====
section
/-! DEFINITION. The state: the register window (10_state.md R21), the latched operands (R36), the source memory
(20_memory.md R50), the host agents and whose turn is next (60_exceptions.md R260), the instance's parameters, and the two
fields of the model's own that carry free values. -/

namespace Sys2Proof.Machine

/-- The causes (60_exceptions.md R261). Codes 5 to 15 are never produced (93_implementation_defined.md U8), so the CAUSE
field holds one of these (log 15). -/
inductive Cause where
  | ok
  | absent
  | illegalOp
  | range
  | busFault
deriving DecidableEq, Repr

/-- The fields of STATUS (10_state.md R24). BUSY is also the phase (R37). Bits 3 and 63:8 read 0. -/
structure Status where
  busy : Bool
  done : Bool
  ovr : Bool
  cause : Cause
deriving DecidableEq, Repr

/-- The latched operands `L` (10_state.md R36). -/
structure Latched where
  op : Word64
  src : Word64
  len : Word64
  seed0 : Word64
  seed1 : Word64
deriving DecidableEq, Repr

/-- The slots of the register window (10_state.md R21): each is one 64-bit offset. `reserved k` is offset 0x68 + 8k (R33). -/
inductive Reg where
  | cap
  | ctrl
  | status
  | cmd
  | src
  | len
  | seed0
  | seed1
  | res0
  | res1
  | res2
  | res3
  | faultAddr
  | reserved (k : Fin 19)
deriving DecidableEq, Repr

/-- The direction of a bus access, with the data of a write. -/
inductive AccessKind where
  | read
  | write (v : Word64)
deriving DecidableEq, Repr

/-- Any access a host agent may try at a system address, admitted or not (20_memory.md R60). DESIGN CHOICE: a system address
has 64 bits, where the spec gives no width (log 23). -/
structure BusAccess where
  addr : Word64
  /-- The width in bytes. -/
  width : Nat
  kind : AccessKind
deriving DecidableEq, Repr

/-- The statements of a host program (30_encoding.md R90), and the raw access `bus`, which can spell an access that is not
admitted (20_memory.md R60). A comment has no step. -/
inductive Stmt where
  /-- `wr NAME, value`. -/
  | wr (r : Reg) (v : Word64)
  /-- `rd NAME`. -/
  | rd (r : Reg)
  /-- `wait`: read STATUS until BUSY reads 0. -/
  | wait
  /-- `store a, bytes`. The address is a plain number, so that one above the address space can be written down. -/
  | store (a : Nat) (bytes : List Byte)
  /-- An access at a system address, of any width: the model's own spelling (log 11). -/
  | bus (a : BusAccess)
deriving DecidableEq, Repr

/-- A host agent: the statements it has left, the values its `rd` statements returned (oldest first), and whether it is
stuck on an access that was not admitted (20_memory.md R60, 93_implementation_defined.md U4) or does not exist (log 12). -/
structure HostAgent where
  program : List Stmt
  reads : List Word64
  stuck : Bool
deriving DecidableEq, Repr

/-- Whose step is next (60_exceptions.md R260): the block's completion step, a host agent's, or the platform's reset. -/
inductive Turn where
  | block
  | host (k : Nat)
  | reset
deriving DecidableEq, Repr

/-- The machine's state. -/
structure State where
  /-- The instance's parameters (00_scope.md R6); no step changes them (log 1). -/
  params : Params
  /-- CTRL.IRQ_EN (10_state.md R23). -/
  irqEn : Bool
  /-- STATUS (10_state.md R24). -/
  status : Status
  /-- SRC (10_state.md R27). -/
  src : Word64
  /-- LEN (10_state.md R28). -/
  len : Word64
  /-- SEED0 (10_state.md R29). -/
  seed0 : Word64
  /-- SEED1 (10_state.md R30). -/
  seed1 : Word64
  /-- RES0 to RES3 (10_state.md R31). -/
  res : Quad
  /-- FAULT_ADDR (10_state.md R32). -/
  faultAddr : Word64
  /-- `L` (10_state.md R36). -/
  latched : Latched
  /-- Source memory: address and byte, in the canonical form `Memory.wf` says (20_memory.md R50). -/
  mem : List Host.Cell
  /-- A host step wrote a byte of the latched window since the acceptance (20_memory.md R63 item 5; log 5). -/
  windowWritten : Bool
  /-- The number of the next draw (log 7). -/
  draws : Nat
  /-- The host agents (60_exceptions.md R260, R278). -/
  hosts : List HostAgent
  /-- Who moves next; the rest of the order when it is used up is `nextTurn`'s (log 10). -/
  schedule : List Turn
deriving DecidableEq, Repr

/-- The reasons the model stops: none. The block does not trap (60_exceptions.md R271), and an access that the spec gives no step
leaves its agent stuck while the rest goes on (20_memory.md R60; log 11, log 12). -/
inductive Fault where
deriving DecidableEq, Repr

/-- The reasons a command is refused. -/
inductive Refusal where
  /-- The command of this mnemonic has no meaning in the model. Raised by no arm: every command has its meaning. Safe. -/
  | notModelled (mnemonic : String)
deriving DecidableEq, Repr

/-- STATUS after reset (10_state.md R43). -/
def Status.reset : Status := { busy := false, done := false, ovr := false, cause := .ok }

/-- `L` after reset. The spec leaves it unspecified (10_state.md R36) and lets a model hold any value
(93_implementation_defined.md U5). DESIGN CHOICE: zeros; nothing reads them before an acceptance (log 3). -/
def Latched.reset : Latched := { op := 0, src := 0, len := 0, seed0 := 0, seed1 := 0 }

/-- The state after reset of an instance with these parameters (10_state.md R43, 70_reset_and_hazards.md R300). -/
def State.init (p : Params) : State :=
  { params := p
    irqEn := false
    status := Status.reset
    src := 0
    len := 0
    seed0 := 0
    seed1 := 0
    res := Quad.zero
    faultAddr := 0
    latched := Latched.reset
    mem := []
    windowWritten := false
    draws := 0
    hosts := []
    schedule := [] }

/-- The machine right after reset, for the default instance (log 2). -/
def State.reset : State := State.init Params.default

end Sys2Proof.Machine
end

