-- ==== Sys2Proof/Machine/Flags.lean ====
section
/-! DEFINITION. Every flag computation of the block: STATUS and CTRL as words, the effect of writing them, the cause codes,
and the irq output (10_state.md R23 to R25, R38; 60_exceptions.md R261). The datapath sets no flag (10_state.md R39). -/

namespace Sys2Proof.Machine

/-- The code of a cause in STATUS.CAUSE (60_exceptions.md R261). -/
def Cause.code : Cause → BitVec 4
  | .ok => 0
  | .absent => 1
  | .illegalOp => 2
  | .range => 3
  | .busFault => 4

/-- STATUS as read (10_state.md R24): CAUSE in 7:4, OVR in 2, DONE in 1, BUSY in 0, the rest 0. -/
def Status.word (st : Status) : Word64 :=
  (st.cause.code ++ (0 : BitVec 1) ++ BitVec.ofBool st.ovr ++ BitVec.ofBool st.done ++
    BitVec.ofBool st.busy).setWidth 64

/-- A host write of `v` to STATUS (10_state.md R25): DONE and OVR are write-1-to-clear, every other bit is ignored. -/
def Status.hostWrite (v : Word64) (st : Status) : Status :=
  { st with done := st.done && !v.getLsbD 1, ovr := st.ovr && !v.getLsbD 2 }

/-- STATUS at an acceptance (60_exceptions.md R265): BUSY set, DONE and CAUSE cleared, OVR kept. -/
def Status.accepted (st : Status) : Status := { st with busy := true, done := false, cause := .ok }

/-- STATUS when a command is dropped (60_exceptions.md R267): OVR set, nothing else. -/
def Status.dropped (st : Status) : Status := { st with ovr := true }

/-- STATUS at a completion (60_exceptions.md R270): the cause, BUSY cleared, DONE set, OVR kept. -/
def Status.completed (c : Cause) (st : Status) : Status := { st with busy := false, done := true, cause := c }

/-- CTRL as read (10_state.md R23). -/
def ctrlWord (irqEn : Bool) : Word64 := (BitVec.ofBool irqEn).setWidth 64

/-- IRQ_EN after a host write of `v` to CTRL (10_state.md R23). -/
def irqEnOfWrite (v : Word64) : Bool := v.getLsbD 0

/-- CAP as read (10_state.md R22). -/
def capWord (p : Params) : Word64 := (BitVec.ofBool p.hasCrc).setWidth 64

/-- The interrupt output (10_state.md R38). -/
def State.irq (s : State) : Bool := s.status.done && s.irqEn

end Sys2Proof.Machine
end

