-- ==== Sys2Proof/Machine/Primitives.lean ====
section
/-! DEFINITION. The datapath's constants, primitives and shared mixers (40_primitives.md R100 to R121). All arithmetic wraps
at the word's width (R101), which is what `BitVec` addition, subtraction and multiplication do. -/

namespace Sys2Proof.Machine

/-- `k0` (R100). -/
def k0 : Word64 := 0xc3a5c85c97cb3127
/-- `k1` (R100). -/
def k1 : Word64 := 0xb492b66fbe98f273
/-- `k2` (R100). -/
def k2 : Word64 := 0x9ae16a3b2f90404f
/-- `c1` (R100). -/
def c1 : Word32 := 0xcc9e2d51
/-- `c2` (R100). -/
def c2 : Word32 := 0x1b873593
/-- `kMul` (R100). -/
def kMul : Word64 := 0x9ddfea08eb382d69
/-- `fm1` (R100). -/
def fm1 : Word32 := 0x85ebca6b
/-- `fm2` (R100). -/
def fm2 : Word32 := 0xc2b2ae35
/-- `m5` (R100). -/
def m5 : Word32 := 0xe6546b64

/-- `rotr32` (R102): a rotation by 0 is special-cased (R104). -/
def rotr32 (v : Word32) (r : Nat) : Word32 :=
  if r = 0 then v else (v >>> r) ||| (v <<< (32 - r))

/-- `rotr64` (R103): a rotation by 0 is special-cased (R104). -/
def rotr64 (v : Word64) (r : Nat) : Word64 :=
  if r = 0 then v else (v >>> r) ||| (v <<< (64 - r))

/-- `shiftMix` (R105). -/
def shiftMix (v : Word64) : Word64 := v ^^^ (v >>> 47)

/-- `bswap32` (R106): the byte order reversed. -/
def bswap32 (v : Word32) : Word32 :=
  v.extractLsb' 0 8 ++ v.extractLsb' 8 8 ++ v.extractLsb' 16 8 ++ v.extractLsb' 24 8

/-- `bswap64` (R107): the byte order reversed. -/
def bswap64 (v : Word64) : Word64 :=
  v.extractLsb' 0 8 ++ v.extractLsb' 8 8 ++ v.extractLsb' 16 8 ++ v.extractLsb' 24 8 ++
    v.extractLsb' 32 8 ++ v.extractLsb' 40 8 ++ v.extractLsb' 48 8 ++ v.extractLsb' 56 8

/-- `fmix` (R108). -/
def fmix (h : Word32) : Word32 :=
  let h := h ^^^ (h >>> 16)
  let h := h * fm1
  let h := h ^^^ (h >>> 13)
  let h := h * fm2
  h ^^^ (h >>> 16)

/-- `mix32` (R110). -/
def mix32 (x : Word32) : Word32 := rotr32 (x * c1) 17 * c2

/-- `step5` (R111). -/
def step5 (h : Word32) : Word32 := h * 5 + m5

/-- `Mur` (R109): its first three steps are `mix32` (R110), its last is `step5` (R111). -/
def mur (a h : Word32) : Word32 := step5 (rotr32 (h ^^^ mix32 a) 19)

/-- `permute3` (R112): `swap(a, b)`, then `swap(a, c)`. -/
def permute3 {α : Type} (a b c : α) : α × α × α := (c, a, b)

/-- `HashLen16m` (R116). -/
def hashLen16m (u v mul : Word64) : Word64 :=
  let a := (u ^^^ v) * mul
  let a := a ^^^ (a >>> 47)
  let b := (v ^^^ a) * mul
  let b := b ^^^ (b >>> 47)
  b * mul

/-- `Hash128to64` (R113). -/
def hash128to64 (p : Pair) : Word64 :=
  let a := (p.lo ^^^ p.hi) * kMul
  let a := a ^^^ (a >>> 47)
  let b := (p.hi ^^^ a) * kMul
  let b := b ^^^ (b >>> 47)
  b * kMul

/-- `HashLen16` (R115). -/
def hashLen16 (u v : Word64) : Word64 := hash128to64 ⟨u, v⟩

/-- `mulLen` (R117). -/
def mulLen (n : Word64) : Word64 := k2 + n * 2

/-- `Weak` (R120). -/
def weak (w x y z a b : Word64) : Pair :=
  let a := a + w
  let b := rotr64 (b + a + z) 21
  let c := a
  let a := a + x
  let a := a + y
  let b := b + rotr64 a 44
  ⟨a + z, b + c⟩

end Sys2Proof.Machine
end

