-- ==== Sys2Proof/Machine/Operands.lean ====
section
/-! DEFINITION. Operand forms: the input view and its fetches (00_scope.md R10, 20_memory.md R52 to R58), the weak combiner
over a view (40_primitives.md R121), and the seed forms (30_encoding.md R85). -/

namespace Sys2Proof.Machine

/-- An input view: its bytes, and what a fetch outside them would give. The spec excludes such fetches (20_memory.md R56), so
no result of a command depends on `outside`; holding it as a field lets that be stated. -/
structure View where
  bytes : List Byte
  outside : Nat → Byte

/-- The view of a command's window bytes; outside it a fetch would be a free value (log 17). -/
def View.ofBytes (bytes : List Byte) : View := { bytes := bytes, outside := Config.byteOutsideView }

/-- `len(s)`. -/
def View.len (s : View) : Nat := s.bytes.length

/-- `len(s)` as a `u64` (30_encoding.md R84). -/
def View.len64 (s : View) : Word64 := BitVec.ofNat 64 s.len

/-- `n32 = trunc_32(len)` (41_hash32.md R140). -/
def View.n32 (s : View) : Word32 := s.len64.setWidth 32

/-- `s[k:]` (00_scope.md R10): offset `p` of it is offset `p + k` of `s` (43_hash128.md R193). -/
def View.drop (s : View) (k : Nat) : View :=
  { bytes := s.bytes.drop k, outside := fun p => s.outside (p + k) }

/-- `Byte(s, p)` (20_memory.md R55). -/
def View.byte (s : View) (p : Nat) : Byte :=
  match s.bytes[p]? with
  | some b => b
  | none => s.outside p

/-- `Fetch32(s, p)` (20_memory.md R53): little-endian, at any offset (R57, R58). -/
def View.fetch32 (s : View) (p : Nat) : Word32 :=
  (s.byte p).setWidth 32 ||| (s.byte (p + 1)).setWidth 32 <<< 8 |||
    (s.byte (p + 2)).setWidth 32 <<< 16 ||| (s.byte (p + 3)).setWidth 32 <<< 24

/-- `Fetch64(s, p)` (20_memory.md R54): little-endian, at any offset (R57, R58). -/
def View.fetch64 (s : View) (p : Nat) : Word64 :=
  (s.byte p).setWidth 64 + (s.byte (p + 1)).setWidth 64 <<< 8 +
    (s.byte (p + 2)).setWidth 64 <<< 16 + (s.byte (p + 3)).setWidth 64 <<< 24 +
    (s.byte (p + 4)).setWidth 64 <<< 32 + (s.byte (p + 5)).setWidth 64 <<< 40 +
    (s.byte (p + 6)).setWidth 64 <<< 48 + (s.byte (p + 7)).setWidth 64 <<< 56

/-- `WeakS(s, p, a, b)` (40_primitives.md R121). -/
def weakS (s : View) (p : Nat) (a b : Word64) : Pair :=
  weak (s.fetch64 p) (s.fetch64 (p + 8)) (s.fetch64 (p + 16)) (s.fetch64 (p + 24)) a b

/-- The 128-bit seed and the pair FOLD128 folds: `(lo = L.seed0, hi = L.seed1)` (30_encoding.md R85, R86). -/
def Latched.seedPair (l : Latched) : Pair := ⟨l.seed0, l.seed1⟩

/-- A 32-bit result: `RES0 = zext_64(r)`, the rest 0 (30_encoding.md R87). -/
def resultOfWord32 (r : Word32) : Quad := ⟨r.setWidth 64, 0, 0, 0⟩

/-- A 64-bit result: `RES0 = r`, the rest 0 (30_encoding.md R87). -/
def resultOfWord64 (r : Word64) : Quad := ⟨r, 0, 0, 0⟩

/-- A 128-bit result: `RES0 = r.lo`, `RES1 = r.hi`, the rest 0 (30_encoding.md R87). -/
def resultOfPair (r : Pair) : Quad := ⟨r.lo, r.hi, 0, 0⟩

end Sys2Proof.Machine
end

