-- ==== Sys2Proof/Machine/Ops.lean ====
section
/-! DEFINITION. The named operations over memory and registers: source memory, the window check (60_exceptions.md R264), the
completion record (R270), acceptance (R265), register reads and writes (10_state.md R21 to R34), stores and reset. -/

namespace Sys2Proof.Machine

/-- What an unlisted address reads as. DESIGN CHOICE, unsafe: 0x00 everywhere (log 4). -/
def unlistedByte (_a : Nat) : Byte := 0

/-- The byte at an address. -/
def Memory.read : List Host.Cell → Nat → Byte
  | [], a => unlistedByte a
  | (k, b) :: m, a => if k = a then b else Memory.read m a

/-- One byte written, the canonical form kept: writing what an unlisted address reads as removes the entry. -/
def Memory.write : List Host.Cell → Nat → Byte → List Host.Cell
  | [], a, b => if b = unlistedByte a then [] else [(a, b)]
  | (k, c) :: m, a, b =>
    if k < a then (k, c) :: Memory.write m a b
    else if k = a then (if b = unlistedByte a then m else (a, b) :: m)
    else (if b = unlistedByte a then (k, c) :: m else (a, b) :: (k, c) :: m)

/-- The canonical form above a bound: addresses strictly rising from `lo`, inside the 64-bit address space (20_memory.md
R50), and no entry equal to what its address reads as when unlisted. -/
def Memory.wfFrom : Nat → List Host.Cell → Bool
  | _, [] => true
  | lo, (k, b) :: m => decide (lo ≤ k) && decide (k < 2 ^ 64) && decide (b ≠ unlistedByte k) && Memory.wfFrom (k + 1) m

/-- The canonical form of the source memory. -/
def Memory.wf (m : List Host.Cell) : Bool := Memory.wfFrom 0 m

/-- `MemRead(a, n)` (20_memory.md R50): the bytes at `a`, `a+1`, ..., `a+n-1`. -/
def Memory.readBytes (m : List Host.Cell) : Nat → Nat → List Byte
  | _, 0 => []
  | a, n + 1 => Memory.read m a :: Memory.readBytes m (a + 1) n

/-- The address is in the range. -/
def AddrRange.holds (r : AddrRange) (a : Nat) : Bool := decide (r.first.toNat ≤ a) && decide (a ≤ r.last.toNat)

/-- `readable(a)` (20_memory.md R51). -/
def isReadable (p : Params) (a : Nat) : Bool := p.readable.any fun r => AddrRange.holds r a

/-- A read of `a` has side effects (20_memory.md R59). -/
def isSideEffecting (p : Params) (a : Nat) : Bool := p.sideEffecting.any fun r => AddrRange.holds r a

/-- The lowest of the `n` addresses from `a` that is not readable. -/
def firstUnreadable (p : Params) : Nat → Nat → Option Nat
  | _, 0 => none
  | a, n + 1 => if isReadable p a then firstUnreadable p (a + 1) n else some a

/-- Some of the `n` addresses from `a` has reads with side effects. -/
def anySideEffecting (p : Params) : Nat → Nat → Bool
  | _, 0 => false
  | a, n + 1 => isSideEffecting p a || anySideEffecting p (a + 1) n

/-- The outcome of a command: a result, or the cause that ended it (60_exceptions.md R261). -/
inductive Completion where
  | ok (r : Quad)
  | absent
  | illegalOp
  | range
  | busFault (a : Word64)
deriving DecidableEq, Repr

/-- The cause of a completion (60_exceptions.md R261). -/
def Completion.cause : Completion → Cause
  | .ok _ => .ok
  | .absent => .absent
  | .illegalOp => .illegalOp
  | .range => .range
  | .busFault _ => .busFault

/-- RES0 to RES3 of a completion: zeros for every cause other than OK (60_exceptions.md R270). -/
def Completion.results : Completion → Quad
  | .ok r => r
  | .absent => Quad.zero
  | .illegalOp => Quad.zero
  | .range => Quad.zero
  | .busFault _ => Quad.zero

/-- FAULT_ADDR of a completion: 0 for every cause other than BUS_FAULT (60_exceptions.md R270). -/
def Completion.faultAddr : Completion → Word64
  | .ok _ => 0
  | .absent => 0
  | .illegalOp => 0
  | .range => 0
  | .busFault a => a

/-- The completion record (60_exceptions.md R270): the block's way of taking an exception (R271). RES0 to RES3, FAULT_ADDR,
CAUSE, BUSY and DONE are written in one step; OVR and every other register are kept. -/
def complete (c : Completion) (s : State) : State :=
  { s with res := c.results, faultAddr := c.faultAddr, status := s.status.completed c.cause }

/-- The next four draws (60_exceptions.md R269). -/
def drawnResults (s : State) : Quad :=
  ⟨Config.freeWord s.draws, Config.freeWord (s.draws + 1), Config.freeWord (s.draws + 2), Config.freeWord (s.draws + 3)⟩

/-- A completion whose RES0 to RES3 are a draw; "the cause and the other registers are as written" for it
(60_exceptions.md R269). -/
def completeDrawn (c : Completion) (s : State) : State :=
  { complete c s with res := drawnResults s, draws := s.draws + 4 }

/-- `check_window()` (60_exceptions.md R264), in its priority (R268): the cause that ends the command, if any. The sum
`L.src + L.len` is exact. -/
def checkWindow (p : Params) (l : Latched) : Option Completion :=
  if l.src = 0 then some .absent
  else if 0 < l.len.toNat ∧ 2 ^ 64 < l.src.toNat + l.len.toNat then some .range
  else
    match firstUnreadable p l.src.toNat l.len.toNat with
    | some a => some (.busFault (BitVec.ofNat 64 a))
    | none => none

/-- The address is in the latched window `[L.src, L.src + L.len)`. -/
def inWindow (l : Latched) (a : Nat) : Bool := decide (l.src.toNat ≤ a) && decide (a < l.src.toNat + l.len.toNat)

/-- The bytes of the latched window, `MemRead(L.src, L.len)` (20_memory.md R52). -/
def windowBytes (s : State) : List Byte := Memory.readBytes s.mem s.latched.src.toNat s.latched.len.toNat

/-- How a command that reads memory would complete if nothing disturbed its window: the check, then `f` of the view. -/
def windowCompletion (f : View → Quad) (s : State) : Completion :=
  match checkWindow s.params s.latched with
  | some c => c
  | none => .ok (f (View.ofBytes (windowBytes s)))

/-- RES0 to RES3 of this completion are a draw: a host step wrote a window byte while the command ran (20_memory.md R63
item 5, log 5), or the window's reads have side effects (R59, log 9). -/
def resultsAreDrawn (c : Completion) (s : State) : Bool :=
  s.windowWritten ||
    (decide (c.cause = .ok) && anySideEffecting s.params s.latched.src.toNat s.latched.len.toNat)

/-- A command that reads memory and computes `f` of its view (60_exceptions.md R269). -/
def runOnWindow (f : View → Quad) (s : State) : Host.Outcome State Fault Refusal :=
  let c := windowCompletion f s
  if resultsAreDrawn c s then .next (completeDrawn c s) else .next (complete c s)

/-- A command of the CRC path: without `HAS_CRC` its word names no command and completes ILLEGAL_OP (30_encoding.md R88,
45_crc.md R230; log 14). -/
def runOnWindowIfCrc (f : View → Quad) (s : State) : Host.Outcome State Fault Refusal :=
  if s.params.hasCrc then runOnWindow f s else .next (complete .illegalOp s)

/-- Acceptance of the command word `v` (60_exceptions.md R265): the operands are latched (10_state.md R36). -/
def accept (v : Word64) (s : State) : State :=
  { s with
    latched := { op := v, src := s.src, len := s.len, seed0 := s.seed0, seed1 := s.seed1 }
    status := s.status.accepted
    windowWritten := false }

/-- A host write of `v` to CMD: accepted while IDLE (60_exceptions.md R265), dropped while BUSY (R267). -/
def offerCommand (v : Word64) (s : State) : State :=
  if s.status.busy then { s with status := s.status.dropped } else accept v s

/-- A host read of a register (10_state.md R21 to R33). -/
def regRead (r : Reg) (s : State) : Word64 :=
  match r with
  | .cap => capWord s.params
  | .ctrl => ctrlWord s.irqEn
  | .status => s.status.word
  | .cmd => 0
  | .src => s.src
  | .len => s.len
  | .seed0 => s.seed0
  | .seed1 => s.seed1
  | .res0 => s.res.r0
  | .res1 => s.res.r1
  | .res2 => s.res.r2
  | .res3 => s.res.r3
  | .faultAddr => s.faultAddr
  | .reserved _ => 0

/-- A host write of `v` to a register (10_state.md R21 to R34). Writes to read-only registers and reserved offsets are
ignored. -/
def regWrite (r : Reg) (v : Word64) (s : State) : State :=
  match r with
  | .cap => s
  | .ctrl => { s with irqEn := irqEnOfWrite v }
  | .status => { s with status := s.status.hostWrite v }
  | .cmd => offerCommand v s
  | .src => { s with src := v }
  | .len => { s with len := v }
  | .seed0 => { s with seed0 := v }
  | .seed1 => { s with seed1 := v }
  | .res0 => s
  | .res1 => s
  | .res2 => s
  | .res3 => s
  | .faultAddr => s
  | .reserved _ => s

/-- A host write of one byte to source memory (30_encoding.md R90). While the block is BUSY, a byte of the latched window
marks the running command's results as a draw (60_exceptions.md R269, 20_memory.md R63 item 5; log 5), the value it already held
counting as written too (log 6). -/
def storeByte (a : Nat) (b : Byte) (s : State) : State :=
  { s with
    mem := Memory.write s.mem a b
    windowWritten := s.windowWritten || (s.status.busy && inWindow s.latched a) }

/-- Reset (70_reset_and_hazards.md R300, R301): every register takes its reset value and a running command is abandoned.
Source memory, the parameters, the host agents, the order of turns and the numbering of draws are not the block's and stay. -/
def resetBlock (s : State) : State :=
  { State.init s.params with mem := s.mem, draws := s.draws, hosts := s.hosts, schedule := s.schedule }

end Sys2Proof.Machine
end

