-- ==== Sys2Proof/Machine/Hash64.lean ====
section
/-! DEFINITION. The 64-bit hash and its commands HASH64, HASH64_SEED and HASH64_SEEDS (42_hash64.md R160 to R173). -/

namespace Sys2Proof.Machine

/-- `HashLen0to16` (R161): its four sub-cases. The bytes of the 1-to-3 case are read unsigned. -/
def hashLen0to16 (s : View) : Word64 :=
  if 8 ≤ s.len then
    let mul := mulLen s.len64
    let a := s.fetch64 0 + k2
    let b := s.fetch64 (s.len - 8)
    let c := rotr64 b 37 * mul + a
    let d := (rotr64 a 25 + b) * mul
    hashLen16m c d mul
  else if 4 ≤ s.len then
    let mul := mulLen s.len64
    let a := (s.fetch32 0).setWidth 64
    hashLen16m (s.len64 + (a <<< 3)) ((s.fetch32 (s.len - 4)).setWidth 64) mul
  else if 0 < s.len then
    let a := s.byte 0
    let b := s.byte (s.len >>> 1)
    let c := s.byte (s.len - 1)
    let y := a.setWidth 32 + (b.setWidth 32 <<< 8)
    let z := s.n32 + (c.setWidth 32 <<< 2)
    shiftMix ((y.setWidth 64 * k2) ^^^ (z.setWidth 64 * k0)) * k2
  else k2

/-- `HashLen17to32` (R162). -/
def hashLen17to32 (s : View) : Word64 :=
  let mul := mulLen s.len64
  let a := s.fetch64 0 * k1
  let b := s.fetch64 8
  let c := s.fetch64 (s.len - 8) * mul
  let d := s.fetch64 (s.len - 16) * k2
  hashLen16m (rotr64 (a + b) 43 + rotr64 c 30 + d) (a + rotr64 (b + k2) 18 + c) mul

/-- `HashLen33to64` (R163). -/
def hashLen33to64 (s : View) : Word64 :=
  let mul := mulLen s.len64
  let a := s.fetch64 0 * k2
  let b := s.fetch64 8
  let c := s.fetch64 (s.len - 24)
  let d := s.fetch64 (s.len - 32)
  let e := s.fetch64 16 * k2
  let f := s.fetch64 24 * 9
  let g := s.fetch64 (s.len - 8)
  let h := s.fetch64 (s.len - 16) * mul
  let u := rotr64 (a + g) 43 + (rotr64 b 30 + c) * 9
  let v := ((a + g) ^^^ d) + f + 1
  let w := bswap64 ((u + v) * mul) + h
  let x := rotr64 (e + f) 42 + c
  let y := (bswap64 ((v + w) * mul) + g) * mul
  let z := e + f + c
  let a := bswap64 ((x + z) * mul + y) + b
  let b := shiftMix ((z + a) * mul + d + h) * mul
  b + x

/-- The accumulators of the long 64-bit and 128-bit paths: seven words (10_state.md R40). -/
structure Acc64 where
  x : Word64
  y : Word64
  z : Word64
  v : Pair
  w : Pair
deriving DecidableEq, Repr

/-- `Hash64Long` step 1: the accumulators seeded from the tail and the head word (R164). -/
def hash64LongSeed (s : View) : Acc64 :=
  let x := s.fetch64 (s.len - 40)
  let y := s.fetch64 (s.len - 16) + s.fetch64 (s.len - 56)
  let z := hashLen16 (s.fetch64 (s.len - 48) + s.len64) (s.fetch64 (s.len - 24))
  let v := weakS s (s.len - 64) s.len64 z
  let w := weakS s (s.len - 32) (y + k1) x
  let x := x * k1 + s.fetch64 0
  ⟨x, y, z, v, w⟩

/-- `Step64` (R165): the inner step on the 64-byte chunk at offset `p`. -/
def step64 (s : View) (p : Nat) (acc : Acc64) : Acc64 :=
  let x := rotr64 (acc.x + acc.y + acc.v.lo + s.fetch64 (p + 8)) 37 * k1
  let y := rotr64 (acc.y + acc.v.hi + s.fetch64 (p + 48)) 42 * k1
  let x := x ^^^ acc.w.hi
  let y := y + acc.v.lo + s.fetch64 (p + 40)
  let z := rotr64 (acc.z + acc.w.lo) 33 * k1
  let v := weakS s p (acc.v.hi * k1) (x + acc.w.lo)
  let w := weakS s (p + 32) (z + acc.w.hi) (y + s.fetch64 (p + 16))
  ⟨z, y, x, v, w⟩

/-- The accumulators after the first `n` chunks of 64 bytes (R166; 43_hash128.md R196 uses it too). -/
def step64Loop (s : View) : Nat → Acc64 → Acc64
  | 0, acc => acc
  | n + 1, acc => step64 s (64 * n) (step64Loop s n acc)

/-- `Hash64Long` step 3, the finalization (R166). -/
def hash64Finish (acc : Acc64) : Word64 :=
  hashLen16 (hashLen16 acc.v.lo acc.w.lo + shiftMix acc.y * k1 + acc.z) (hashLen16 acc.v.hi acc.w.hi + acc.x)

/-- `Hash64Long` (R164 to R166): `(len - 1) / 64` chunks. -/
def hash64Long (s : View) : Word64 := hash64Finish (step64Loop s ((s.len - 1) / 64) (hash64LongSeed s))

/-- `CityHash64`: dispatch by length (R160). -/
def cityHash64 (s : View) : Word64 :=
  if s.len ≤ 16 then hashLen0to16 s
  else if s.len ≤ 32 then hashLen17to32 s
  else if s.len ≤ 64 then hashLen33to64 s
  else hash64Long s

/-- The two-seed form (R172): one extra `HashLen16`. -/
def cityHash64WithSeeds (s : View) (seed0 seed1 : Word64) : Word64 := hashLen16 (cityHash64 s - seed0) seed1

/-- The one-seed form (R171). -/
def cityHash64WithSeed (s : View) (seed : Word64) : Word64 := hashLen16 (cityHash64 s - k2) seed

/-- HASH64 (R170). -/
def execHash64 (s : State) : Host.Outcome State Fault Refusal :=
  runOnWindow (fun v => resultOfWord64 (cityHash64 v)) s

/-- HASH64_SEED (R171): `seed = L.seed0`. -/
def execHash64Seed (s : State) : Host.Outcome State Fault Refusal :=
  runOnWindow (fun v => resultOfWord64 (cityHash64WithSeed v s.latched.seed0)) s

/-- HASH64_SEEDS (R172): `seed0 = L.seed0`, `seed1 = L.seed1`. -/
def execHash64Seeds (s : State) : Host.Outcome State Fault Refusal :=
  runOnWindow (fun v => resultOfWord64 (cityHash64WithSeeds v s.latched.seed0 s.latched.seed1)) s

end Sys2Proof.Machine
end

