-- ==== Sys2Proof/Machine/Hash128.lean ====
section
/-! DEFINITION. The 128-bit hash and its commands HASH128 and HASH128_SEED (43_hash128.md R190 to R202). -/

namespace Sys2Proof.Machine

/-- The accumulators of CityMurmur (10_state.md R40). -/
structure MurmurAcc where
  a : Word64
  b : Word64
  c : Word64
  d : Word64
deriving DecidableEq, Repr

/-- CityMurmur's closed form, `len <= 16` (R194). -/
def murmurShort (s : View) (seed : Pair) : MurmurAcc :=
  let a := shiftMix (seed.lo * k1) * k1
  let c := seed.hi * k1 + hashLen0to16 s
  let d := shiftMix (a + (if 8 ≤ s.len then s.fetch64 0 else c))
  ⟨a, seed.hi, c, d⟩

/-- CityMurmur's seeding for `len > 16` (R194). -/
def murmurSeed (s : View) (seed : Pair) : MurmurAcc :=
  let c := hashLen16 (s.fetch64 (s.len - 8) + k1) seed.lo
  let d := hashLen16 (seed.hi + s.len64) (c + s.fetch64 (s.len - 16))
  ⟨seed.lo + d, seed.hi, c, d⟩

/-- One 16-byte iteration of CityMurmur at offset `p` (R194). -/
def murmurStep (s : View) (p : Nat) (acc : MurmurAcc) : MurmurAcc :=
  let a := (acc.a ^^^ (shiftMix (s.fetch64 p * k1) * k1)) * k1
  let b := acc.b ^^^ a
  let c := (acc.c ^^^ (shiftMix (s.fetch64 (p + 8) * k1) * k1)) * k1
  let d := acc.d ^^^ c
  ⟨a, b, c, d⟩

/-- The accumulators after the first `n` iterations (R194). -/
def murmurLoop (s : View) : Nat → MurmurAcc → MurmurAcc
  | 0, acc => acc
  | n + 1, acc => murmurStep s (16 * n) (murmurLoop s n acc)

/-- CityMurmur's finalization (R194). -/
def murmurFinish (acc : MurmurAcc) : Pair :=
  let a := hashLen16 acc.a acc.c
  let b := hashLen16 acc.d acc.b
  ⟨a ^^^ b, hashLen16 b a⟩

/-- `CityMurmur` (R194): `(len - 1) / 16` iterations when `len > 16`. -/
def cityMurmur (s : View) (seed : Pair) : Pair :=
  if s.len ≤ 16 then murmurFinish (murmurShort s seed)
  else murmurFinish (murmurLoop s ((s.len - 1) / 16) (murmurSeed s seed))

/-- `Hash128Long` step 1 (R195). -/
def hash128LongSeed (s : View) (seed : Pair) : Acc64 :=
  let x := seed.lo
  let y := seed.hi
  let z := s.len64 * k1
  let vlo := rotr64 (y ^^^ k1) 49 * k1 + s.fetch64 0
  let vhi := rotr64 vlo 42 * k1 + s.fetch64 8
  let wlo := rotr64 (y + z) 35 * k1 + x
  let whi := rotr64 (x + s.fetch64 88) 53 * k1
  ⟨x, y, z, ⟨vlo, vhi⟩, ⟨wlo, whi⟩⟩

/-- `Hash128Long` step 2: `len / 128` passes of two `Step64` each, on consecutive 64-byte chunks (R196). -/
def hash128MainLoop (s : View) (acc : Acc64) : Acc64 := step64Loop s (2 * (s.len / 128)) acc

/-- `Hash128Long` step 3 (R197). -/
def hash128Mix (acc : Acc64) : Acc64 :=
  let x := acc.x + rotr64 (acc.v.lo + acc.z) 49 * k0
  let y := acc.y * k0 + rotr64 acc.w.hi 37
  let z := acc.z * k0 + rotr64 acc.w.lo 27
  ⟨x, y, z, ⟨acc.v.lo * k0, acc.v.hi⟩, ⟨acc.w.lo * 9, acc.w.hi⟩⟩

/-- `Hash128Long` step 4, one 32-byte tail chunk at offset `q` (R198). -/
def hash128TailStep (s : View) (q : Nat) (acc : Acc64) : Acc64 :=
  let y := rotr64 (acc.x + acc.y) 42 * k0 + acc.v.hi
  let wlo := acc.w.lo + s.fetch64 (q + 16)
  let x := acc.x * k0 + wlo
  let z := acc.z + acc.w.hi + s.fetch64 q
  let whi := acc.w.hi + acc.v.lo
  let v := weakS s q (acc.v.lo + z) acc.v.hi
  ⟨x, y, z, ⟨v.lo * k0, v.hi⟩, ⟨wlo, whi⟩⟩

/-- The accumulators after `n` tail chunks, the first chunk the last 32 bytes, working backwards (R198). -/
def hash128TailLoop (s : View) : Nat → Acc64 → Acc64
  | 0, acc => acc
  | n + 1, acc => hash128TailStep s (s.len - 32 * (n + 1)) (hash128TailLoop s n acc)

/-- `Hash128Long` step 5, the output (R199). -/
def hash128Finish (acc : Acc64) : Pair :=
  let x := hashLen16 acc.x acc.v.lo
  let y := hashLen16 (acc.y + acc.z) acc.w.lo
  ⟨hashLen16 (x + acc.v.hi) acc.w.hi + y, hashLen16 (x + acc.w.hi) (y + acc.v.hi)⟩

/-- `Hash128Long` (R195 to R199): the tail loop folds the `r = len mod 128` bytes left in `ceil(r / 32)` chunks. -/
def hash128Long (s : View) (seed : Pair) : Pair :=
  hash128Finish
    (hash128TailLoop s ((s.len % 128 + 31) / 32) (hash128Mix (hash128MainLoop s (hash128LongSeed s seed))))

/-- `CityHash128WithSeed`: dispatch by length (R192). -/
def cityHash128WithSeed (s : View) (seed : Pair) : Pair :=
  if s.len < 128 then cityMurmur s seed else hash128Long s seed

/-- `CityHash128` (R191). -/
def cityHash128 (s : View) : Pair :=
  if 16 ≤ s.len then cityHash128WithSeed (s.drop 16) ⟨s.fetch64 0, s.fetch64 8 + k0⟩
  else cityHash128WithSeed s ⟨k0, k1⟩

/-- HASH128 (R200). -/
def execHash128 (s : State) : Host.Outcome State Fault Refusal :=
  runOnWindow (fun v => resultOfPair (cityHash128 v)) s

/-- HASH128_SEED (R201): `seed = (lo = L.seed0, hi = L.seed1)`. -/
def execHash128Seed (s : State) : Host.Outcome State Fault Refusal :=
  runOnWindow (fun v => resultOfPair (cityHash128WithSeed v s.latched.seedPair)) s

end Sys2Proof.Machine
end

