-- ==== Sys2Proof/Machine/Crc.lean ====
section
/-! DEFINITION. The commands of the CRC-assisted path (45_crc.md R230, R232, R233, R240 to R244). `CRC256` is a parameter
(R232): the datapath functions take it as an argument and the commands pass `Config.crc256` (log 8). -/

namespace Sys2Proof.Machine

/-- The branch of HASHCRC128 (R240): the portable hash up to 900 bytes, words 2 and 3 of `CRC256` above (R233). -/
def cityHashCrc128 (crc256 : List Byte → Quad) (s : View) : Pair :=
  if s.len ≤ 900 then cityHash128 s
  else ⟨(crc256 s.bytes).r2, (crc256 s.bytes).r3⟩

/-- The branch of HASHCRC128_SEED (R241). -/
def cityHashCrc128WithSeed (crc256 : List Byte → Quad) (s : View) (seed : Pair) : Pair :=
  if s.len ≤ 900 then cityHash128WithSeed s seed
  else
    let q := crc256 s.bytes
    let u := seed.hi + q.r0
    let v := seed.lo + q.r1
    ⟨hashLen16 u (v + q.r2), hashLen16 (rotr64 v 32) (u * k0 + q.r3)⟩

/-- HASHCRC128 (R240). -/
def execHashcrc128 (s : State) : Host.Outcome State Fault Refusal :=
  runOnWindowIfCrc (fun v => resultOfPair (cityHashCrc128 Config.crc256 v)) s

/-- HASHCRC128_SEED (R241): `seed = (lo = L.seed0, hi = L.seed1)`. -/
def execHashcrc128Seed (s : State) : Host.Outcome State Fault Refusal :=
  runOnWindowIfCrc (fun v => resultOfPair (cityHashCrc128WithSeed Config.crc256 v s.latched.seedPair)) s

/-- HASHCRC256 (R242). -/
def execHashcrc256 (s : State) : Host.Outcome State Fault Refusal :=
  runOnWindowIfCrc (fun v => Config.crc256 v.bytes) s

end Sys2Proof.Machine
end

