-- ==== Sys2Proof/Machine/Fold128.lean ====
section
/-! DEFINITION. The 128-to-64 fold and its command FOLD128 (44_fold128.md R220 to R222). -/

namespace Sys2Proof.Machine

/-- `fold128to64` (R220). -/
def fold128to64 (p : Pair) : Word64 := hash128to64 p

/-- FOLD128 (R221): no window check, no memory read, cause always OK. -/
def execFold128 (s : State) : Host.Outcome State Fault Refusal :=
  .next (complete (.ok (resultOfWord64 (fold128to64 s.latched.seedPair))) s)

end Sys2Proof.Machine
end

