-- ==== Sys2Proof/Machine/Hash32.lean ====
section
/-! DEFINITION. The 32-bit hash and its command HASH32 (41_hash32.md R140 to R150). -/

namespace Sys2Proof.Machine

/-- One byte of the 0-to-4 mixer (R142): the byte is read as a signed 8-bit value. -/
def hash32ByteStep (bc : Word32 × Word32) (x : Byte) : Word32 × Word32 :=
  let b := bc.1 * c1 + x.signExtend 32
  (b, bc.2 ^^^ b)

/-- `Hash32Len0to4` (R142). -/
def hash32Len0to4 (s : View) : Word32 :=
  let bc := s.bytes.foldl hash32ByteStep (0, 9)
  fmix (mur bc.1 (mur s.n32 bc.2))

/-- `Hash32Len5to12` (R143). -/
def hash32Len5to12 (s : View) : Word32 :=
  let b := s.n32 * 5
  let d := b
  let a := s.n32 + s.fetch32 0
  let b := b + s.fetch32 (s.len - 4)
  let c := 9 + s.fetch32 ((s.len >>> 1) &&& 4)
  fmix (mur c (mur b (mur a d)))

/-- `Hash32Len13to24` (R144). -/
def hash32Len13to24 (s : View) : Word32 :=
  let a := s.fetch32 ((s.len >>> 1) - 4)
  let b := s.fetch32 4
  let c := s.fetch32 (s.len - 8)
  let d := s.fetch32 (s.len >>> 1)
  let e := s.fetch32 0
  let f := s.fetch32 (s.len - 4)
  let h := s.n32
  fmix (mur f (mur e (mur d (mur c (mur b (mur a h))))))

/-- The accumulators of the long 32-bit path (10_state.md R40). -/
structure Acc32 where
  h : Word32
  g : Word32
  f : Word32
deriving DecidableEq, Repr

/-- `Hash32Long` step 1: the accumulators seeded from the tail (R145). -/
def hash32LongSeed (s : View) : Acc32 :=
  let h := s.n32
  let g := c1 * s.n32
  let f := g
  let a0 := mix32 (s.fetch32 (s.len - 4))
  let a1 := mix32 (s.fetch32 (s.len - 8))
  let a2 := mix32 (s.fetch32 (s.len - 16))
  let a3 := mix32 (s.fetch32 (s.len - 12))
  let a4 := mix32 (s.fetch32 (s.len - 20))
  let h := step5 (rotr32 (h ^^^ a0) 19)
  let h := step5 (rotr32 (h ^^^ a2) 19)
  let g := step5 (rotr32 (g ^^^ a1) 19)
  let g := step5 (rotr32 (g ^^^ a3) 19)
  let f := step5 (rotr32 (f + a4) 19)
  ⟨h, g, f⟩

/-- `Hash32Long` step 2, one 20-byte chunk at offset `p` (R146). -/
def hash32Chunk (s : View) (p : Nat) (acc : Acc32) : Acc32 :=
  let a0 := mix32 (s.fetch32 p)
  let a1 := s.fetch32 (p + 4)
  let a2 := mix32 (s.fetch32 (p + 8))
  let a3 := mix32 (s.fetch32 (p + 12))
  let a4 := s.fetch32 (p + 16)
  let h := step5 (rotr32 (acc.h ^^^ a0) 18)
  let f := rotr32 (acc.f + a1) 19 * c1
  let g := step5 (rotr32 (acc.g + a2) 18)
  let h := step5 (rotr32 (h ^^^ (a3 + a1)) 19)
  let g := bswap32 (g ^^^ a4) * 5
  let h := bswap32 (h + a4 * 5)
  let f := f + a0
  let q := permute3 f h g
  ⟨q.2.1, q.2.2, q.1⟩

/-- The accumulators after the first `n` chunks of 20 bytes (R146). -/
def hash32Loop (s : View) : Nat → Acc32 → Acc32
  | 0, acc => acc
  | n + 1, acc => hash32Chunk s (20 * n) (hash32Loop s n acc)

/-- `Hash32Long` step 3, the finalization (R147). -/
def hash32Finish (acc : Acc32) : Word32 :=
  let g := rotr32 acc.g 11 * c1
  let g := rotr32 g 17 * c1
  let f := rotr32 acc.f 11 * c1
  let f := rotr32 f 17 * c1
  let h := rotr32 (step5 (rotr32 (acc.h + g) 19)) 17 * c1
  rotr32 (step5 (rotr32 (h + f) 19)) 17 * c1

/-- `Hash32Long` (R145 to R147): `(len - 1) / 20` chunks. -/
def hash32Long (s : View) : Word32 := hash32Finish (hash32Loop s ((s.len - 1) / 20) (hash32LongSeed s))

/-- `CityHash32`: dispatch by length (R141). -/
def cityHash32 (s : View) : Word32 :=
  if s.len ≤ 4 then hash32Len0to4 s
  else if s.len ≤ 12 then hash32Len5to12 s
  else if s.len ≤ 24 then hash32Len13to24 s
  else hash32Long s

/-- HASH32 (R150). -/
def execHash32 (s : State) : Host.Outcome State Fault Refusal :=
  runOnWindow (fun v => resultOfWord32 (cityHash32 v)) s

end Sys2Proof.Machine
end

