-- ==== Sys2Proof/Machine/Dispatch.lean ====
section
/-! DEFINITION. The completion step's run of command `i` on the latched operands (60_exceptions.md R269): one arm per command. -/

namespace Sys2Proof.Machine

def exec (i : Instr) (s : State) : Host.Outcome State Fault Refusal :=
  match i with
  | .hash32 => Sys2Proof.Machine.execHash32 s
  | .hash64 => Sys2Proof.Machine.execHash64 s
  | .hash64Seed => Sys2Proof.Machine.execHash64Seed s
  | .hash64Seeds => Sys2Proof.Machine.execHash64Seeds s
  | .hash128 => Sys2Proof.Machine.execHash128 s
  | .hash128Seed => Sys2Proof.Machine.execHash128Seed s
  | .fold128 => Sys2Proof.Machine.execFold128 s
  | .hashcrc128 => Sys2Proof.Machine.execHashcrc128 s
  | .hashcrc128Seed => Sys2Proof.Machine.execHashcrc128Seed s
  | .hashcrc256 => Sys2Proof.Machine.execHashcrc256 s

end Sys2Proof.Machine
end

