-- ==== Sys2Proof/Machine/BlockAgent.lean ====
section
/-! DEFINITION. The block agent's one kind of step, the completion step (60_exceptions.md R269). -/

namespace Sys2Proof.Machine

/-- What the latched command word decodes to on this block (R269: `decode(L.op)`). -/
def State.command (s : State) : Decoded := decode s.params.hasCrc s.latched.op

/-- The completion step, enabled exactly when STATUS.BUSY = 1 (R260, R269). A word that names no command completes ILLEGAL_OP
before any other check (R263). While IDLE the block takes no step (R280). -/
def blockStep (s : State) : Host.Outcome State Fault Refusal :=
  if s.status.busy then
    match s.command with
    | .command i => exec i s
    | .illegal _ => .next (complete .illegalOp s)
  else .next s

end Sys2Proof.Machine
end

