-- ==== Sys2Proof/Machine/HostAgent.lean ====
section
/-! DEFINITION. The host agents' steps (60_exceptions.md R260; 30_encoding.md R90, R91; 20_memory.md R60). -/

namespace Sys2Proof.Machine

/-- `REG_BASE` (20_memory.md R60): the page number above eight zero bits. Its width is the model's choice (log 23). -/
def regBase (p : Params) : Word64 := p.regPage ++ (0 : BitVec 8)

/-- The offset of a register in the window (10_state.md R21, R33). -/
def Reg.offset : Reg → Nat
  | .cap => 0x00
  | .ctrl => 0x08
  | .status => 0x10
  | .cmd => 0x18
  | .src => 0x20
  | .len => 0x28
  | .seed0 => 0x30
  | .seed1 => 0x38
  | .res0 => 0x40
  | .res1 => 0x48
  | .res2 => 0x50
  | .res3 => 0x58
  | .faultAddr => 0x60
  | .reserved k => 0x68 + 8 * k.val

/-- The register at an offset: `none` where the offset is not a multiple of 8 below 0x100. -/
def Reg.ofOffset (off : Nat) : Option Reg :=
  if off = 0x00 then some .cap
  else if off = 0x08 then some .ctrl
  else if off = 0x10 then some .status
  else if off = 0x18 then some .cmd
  else if off = 0x20 then some .src
  else if off = 0x28 then some .len
  else if off = 0x30 then some .seed0
  else if off = 0x38 then some .seed1
  else if off = 0x40 then some .res0
  else if off = 0x48 then some .res1
  else if off = 0x50 then some .res2
  else if off = 0x58 then some .res3
  else if off = 0x60 then some .faultAddr
  else if h : 0x68 ≤ off ∧ off ≤ 0xF8 then
    if off % 8 = 0 then some (.reserved ⟨(off - 0x68) / 8, by omega⟩) else none
  else none

/-- The register an access reaches, if it is admitted (20_memory.md R60): 64 bits wide, inside the window, at a multiple of
8. -/
def admitted (p : Params) (a : BusAccess) : Option Reg :=
  if a.width = 8 ∧ (regBase p).toNat ≤ a.addr.toNat then Reg.ofOffset (a.addr.toNat - (regBase p).toNat) else none

/-- The agent moves on to its next statement. -/
def HostAgent.advance (h : HostAgent) : HostAgent := { h with program := h.program.tail }

/-- The agent records a value an `rd` returned and moves on (30_encoding.md R90). -/
def HostAgent.record (v : Word64) (h : HostAgent) : HostAgent := { h.advance with reads := h.reads ++ [v] }

/-- The agent is stuck: it "has no further step" (20_memory.md R60, 93_implementation_defined.md U4; log 11, log 12). -/
def HostAgent.halt (h : HostAgent) : HostAgent := { h with stuck := true }

/-- The agent in place `k` is replaced. -/
def State.setHost (k : Nat) (h : HostAgent) (s : State) : State := { s with hosts := s.hosts.set k h }

/-- The agent has a statement to run and is not stuck. -/
def HostAgent.ready (h : HostAgent) : Bool := !h.stuck && !h.program.isEmpty

/-- The agent's `wr` step. -/
def hostWrite (k : Nat) (h : HostAgent) (r : Reg) (v : Word64) (s : State) : State := (regWrite r v s).setHost k h.advance

/-- The agent's `rd` step. -/
def hostRead (k : Nat) (h : HostAgent) (r : Reg) (s : State) : State := s.setHost k (h.record (regRead r s))

/-- The agent's `wait` step: one read of STATUS, over when BUSY reads 0 (30_encoding.md R90). -/
def hostWait (k : Nat) (h : HostAgent) (s : State) : State := if s.status.busy then s else s.setHost k h.advance

/-- The agent's `store` step: the first byte is written and the rest is left for later steps. A byte above the address space is no
access the host can make (20_memory.md R50), so the agent has no step for it and is stuck (log 12). -/
def hostStore (k : Nat) (h : HostAgent) (a : Nat) (bytes : List Byte) (s : State) : State :=
  match bytes with
  | [] => s.setHost k h.advance
  | b :: rest =>
    if a < 2 ^ 64 then (storeByte a b s).setHost k { h with program := .store (a + 1) rest :: h.program.tail }
    else s.setHost k h.halt

/-- The agent's `bus` step: an admitted access acts as `wr` or `rd` of its register; any other leaves the block unchanged and
the agent stuck (20_memory.md R60; log 11). -/
def hostBus (k : Nat) (h : HostAgent) (a : BusAccess) (s : State) : State :=
  match admitted s.params a with
  | none => s.setHost k h.halt
  | some r =>
    match a.kind with
    | .read => hostRead k h r s
    | .write v => hostWrite k h r v s

/-- One statement of agent `k` (30_encoding.md R90). -/
def runStmt (k : Nat) (h : HostAgent) (st : Stmt) (s : State) : State :=
  match st with
  | .wr r v => hostWrite k h r v s
  | .rd r => hostRead k h r s
  | .wait => hostWait k h s
  | .store a bytes => hostStore k h a bytes s
  | .bus a => hostBus k h a s

/-- Agent `k`'s step: its next statement. An agent that does not exist, is stuck or has finished takes no step. -/
def hostStep (k : Nat) (s : State) : State :=
  match s.hosts[k]? with
  | none => s
  | some h =>
    if h.stuck then s
    else
      match h.program with
      | [] => s
      | st :: _ => runStmt k h st s

end Sys2Proof.Machine
end

