-- ==== Sys2Proof/Machine/Turns.lean ====
section
/-! DEFINITION. Whose step is next (60_exceptions.md R260; log 10), and the placing of a command word where the next completion
step runs it (log 13). -/

namespace Sys2Proof.Machine

/-- The lowest-numbered host agent from place `k` on that can take a step. -/
def firstReady : Nat → List HostAgent → Option Nat
  | _, [] => none
  | k, h :: hs => if h.ready then some k else firstReady (k + 1) hs

/-- Whose step is next: the head of the schedule. When the schedule is used up, the block completes if it is BUSY, which is
the fairness of 70_reset_and_hazards.md R311; otherwise the first agent that can move does. -/
def State.nextTurn (s : State) : Turn :=
  match s.schedule with
  | t :: _ => t
  | [] =>
    if s.status.busy then .block
    else
      match firstReady 0 s.hosts with
      | some k => .host k
      | none => .block

/-- The turn is taken off the schedule. -/
def State.takeTurn (s : State) : State := { s with schedule := s.schedule.tail }

/-- The step of the agent whose turn it is. -/
def runTurn (t : Turn) (s : State) : Host.Outcome State Fault Refusal :=
  match t with
  | .block => blockStep s
  | .host k => .next (hostStep k s)
  | .reset => .next (resetBlock s)

/-- The command word is one of the CRC commands of a block with `HAS_CRC` = 1. -/
def isCrcWord (v : Word64) : Bool :=
  match decode true v with
  | .command i => i.usesCrc
  | .illegal _ => false

/-- An acceptance of the word `v` with the block's completion step next. A word of the CRC path is placed on an instance that
has it (log 13). -/
def placeCommand (v : Word64) (s : State) : State :=
  { accept v s with
    schedule := .block :: s.schedule
    params := { s.params with hasCrc := s.params.hasCrc || isCrcWord v } }

end Sys2Proof.Machine
end

