-- ==== Sys2Proof/Machine/Step.lean ====
section
/-! DEFINITION. One step of the machine: one step of the agent whose turn it is (60_exceptions.md R260). -/

namespace Sys2Proof.Machine

/-- One step of one agent. A turn whose agent has no step enabled passes, leaving everything but the schedule as it was. -/
def step (s : State) : Host.Outcome State Fault Refusal := runTurn s.nextTurn s.takeTurn

/-- `s` with the command word `w` accepted and the block's completion step next, so that the next step runs it (log 13).
There is no instruction memory (20_memory.md R61): the word a completion step runs is `L.op`. -/
def State.withFetchWord (s : State) (_nbits w : Nat) : State := placeCommand (BitVec.ofNat 64 w) s

end Sys2Proof.Machine
end

