-- ==== Sys2Proof/Machine/Crc256Candidate.lean ====
section
/-! DEFINITION. The CRC step (45_crc.md R231) and the candidate for `CRC256` (R234 to R238). UNVERIFIED: the candidate does
not reproduce the remembered reference row (90_conflicts.md C12), so no command uses it. It stands here so that a claim may
name it as an assumption (log 8). -/

namespace Sys2Proof.Machine

/-- The CRC-32C polynomial in reflected form (R231). -/
def crcPoly : Word32 := 0x82F63B78

/-- One bit of the CRC step (R231). -/
def crcBit (c : Word32) : Word32 := if c.getLsbD 0 then (c >>> 1) ^^^ crcPoly else c >>> 1

/-- One byte of the CRC step: the byte is mixed in, then eight bits (R231). -/
def crcByte (c : Word32) (b : Byte) : Word32 :=
  crcBit (crcBit (crcBit (crcBit (crcBit (crcBit (crcBit (crcBit (c ^^^ b.setWidth 32))))))))

/-- `crc32c_u64` (R231): the eight bytes of `v`, least significant first. -/
def crc32cU64 (crc v : Word64) : Word64 :=
  let c := crc.setWidth 32
  let c := crcByte c (v.extractLsb' 0 8)
  let c := crcByte c (v.extractLsb' 8 8)
  let c := crcByte c (v.extractLsb' 16 8)
  let c := crcByte c (v.extractLsb' 24 8)
  let c := crcByte c (v.extractLsb' 32 8)
  let c := crcByte c (v.extractLsb' 40 8)
  let c := crcByte c (v.extractLsb' 48 8)
  let c := crcByte c (v.extractLsb' 56 8)
  c.setWidth 64

/-- The eleven accumulators of the candidate mixer and its byte offset (R234, 10_state.md R40). -/
structure CrcAcc where
  a : Word64
  b : Word64
  c : Word64
  d : Word64
  e : Word64
  f : Word64
  g : Word64
  h : Word64
  x : Word64
  y : Word64
  z : Word64
  p : Nat
deriving DecidableEq, Repr

/-- `CHUNK(r)` (R234). -/
def crcChunk (t : View) (r : Nat) (s : CrcAcc) : CrcAcc :=
  let q := permute3 s.x s.z s.y
  let x := q.1
  let z := q.2.1
  let y := q.2.2
  let b := s.b + t.fetch64 s.p
  let c := s.c + t.fetch64 (s.p + 8)
  let d := s.d + t.fetch64 (s.p + 16)
  let e := s.e + t.fetch64 (s.p + 24)
  let f := s.f + t.fetch64 (s.p + 32)
  let a := s.a + b
  let h := s.h + f
  let b := b + c
  let f := f + d
  let g := s.g + e
  let e := e + z
  let g := g + x
  let z := crc32cU64 z (b + g)
  let y := crc32cU64 y (e + h)
  let x := crc32cU64 x (f + a)
  let e := rotr64 e r
  let c := c + e
  ⟨a, b, c, d, e, f, g, h, x, y, z, s.p + 40⟩

/-- `permute3(a, h, c)` on the accumulators (R235). -/
def crcPermuteAHC (s : CrcAcc) : CrcAcc := { s with a := s.c, h := s.a, c := s.h }
/-- `permute3(a, h, f)`. -/
def crcPermuteAHF (s : CrcAcc) : CrcAcc := { s with a := s.f, h := s.a, f := s.h }
/-- `permute3(b, h, f)`. -/
def crcPermuteBHF (s : CrcAcc) : CrcAcc := { s with b := s.f, h := s.b, f := s.h }
/-- `permute3(b, h, d)`. -/
def crcPermuteBHD (s : CrcAcc) : CrcAcc := { s with b := s.d, h := s.b, d := s.h }
/-- `permute3(b, h, e)`. -/
def crcPermuteBHE (s : CrcAcc) : CrcAcc := { s with b := s.e, h := s.b, e := s.h }
/-- `permute3(a, h, e)`. -/
def crcPermuteAHE (s : CrcAcc) : CrcAcc := { s with a := s.e, h := s.a, e := s.h }
/-- `permute3(c, h, g)`. -/
def crcPermuteCHG (s : CrcAcc) : CrcAcc := { s with c := s.g, h := s.c, g := s.h }

/-- One 240-byte pass (R236). -/
def crcPass (t : View) (s : CrcAcc) : CrcAcc :=
  let s := crcPermuteAHC (crcChunk t 0 s)
  let s := crcPermuteAHF (crcChunk t 33 s)
  let s := crcPermuteBHF (crcChunk t 0 s)
  let s := crcPermuteBHD (crcChunk t 42 s)
  let s := crcPermuteBHE (crcChunk t 0 s)
  crcPermuteAHE (crcChunk t 33 s)

/-- `n` passes (R236). -/
def crcPasses (t : View) : Nat → CrcAcc → CrcAcc
  | 0, s => s
  | n + 1, s => crcPass t (crcPasses t n s)

/-- The mixing after a chunk of the remainder, with its four rotations (R236). -/
def crcRemainderMix (ra rb rc rd : Nat) (s : CrcAcc) : CrcAcc :=
  { s with
    e := s.e ^^^ rotr64 s.a ra
    h := s.h + rotr64 s.b rb
    g := s.g ^^^ rotr64 s.c rc
    f := s.f + rotr64 s.d rd }

/-- The whole 40-byte chunks of the remainder (R236). -/
def crcRemainder (t : View) : Nat → CrcAcc → CrcAcc
  | 0, s => s
  | n + 1, s => crcPermuteCHG (crcRemainderMix 20 30 40 34 (crcChunk t 29 (crcRemainder t n s)))

/-- The last partial chunk, `rem` bytes left: one chunk ending at the end of the input (R236). -/
def crcPartial (t : View) (rem : Nat) (s : CrcAcc) : CrcAcc :=
  if 0 < rem then crcRemainderMix 43 42 41 40 (crcChunk t 33 { s with p := s.p + rem - 40 }) else s

/-- The seeding of the mixer (R236); `result[0]` is `c`, `result[1]` is `d`. -/
def crcSeed (t : View) (n seed : Word64) : CrcAcc :=
  let b := t.fetch64 96 + k0
  let c := hashLen16 b n
  let d := t.fetch64 120 * k0 + n
  { a := t.fetch64 56 + k0, b := b, c := c, d := d, e := t.fetch64 184 + seed, f := 0, g := 0, h := c + d
    x := seed, y := 0, z := 0, p := 0 }

/-- The finalization (R236), from the accumulators and `result[0]`, `result[1]` as seeded. -/
def crcFinish (s : CrcAcc) (res0 res1 : Word64) : Quad :=
  let res0 := res0 ^^^ s.h
  let res1 := res1 ^^^ s.g
  let g := s.g + s.h
  let a := hashLen16 s.a (g + s.z)
  let x := s.x + (s.y <<< 32)
  let b := s.b + x
  let c := hashLen16 s.c s.z + s.h
  let d := hashLen16 s.d (s.e + res0)
  let g := g + s.e
  let h := s.h + hashLen16 x s.f
  let e := hashLen16 a d + g
  let z := hashLen16 b c + a
  let y := hashLen16 g h + c
  let res0 := e + z + y + x
  let a := shiftMix ((a + y) * k0) * k0 + b
  let res1 := res1 + a + res0
  let a := shiftMix (a * k0) * k0 + c
  let res2 := a + res1
  let a := shiftMix ((a + e) * k0) * k0
  ⟨res0, res1, res2, a + res2⟩

/-- `Crc256Long(t, n, seed)` (R236). -/
def crc256Long (t : View) (n : Nat) (seed : Word64) : Quad :=
  let s0 := crcSeed t (BitVec.ofNat 64 n) seed
  let rem := n - n / 240 * 240
  let s := crcPartial t (rem % 40) (crcRemainder t (rem / 40) (crcPasses t (n / 240) s0))
  crcFinish s s0.c s0.d

/-- `Crc256Short(s)` (R237): a zero-padded 240-byte copy, seeded with the complement of the 32-bit length. -/
def crc256Short (s : View) : Quad :=
  let buf := { s with bytes := s.bytes ++ List.replicate (240 - s.len) 0 }
  crc256Long buf 240 ((~~~ s.n32).setWidth 64)

/-- The candidate (R238). -/
def crc256Candidate (s : View) : Quad := if 240 ≤ s.len then crc256Long s s.len 0 else crc256Short s

end Sys2Proof.Machine
end

