-- ==== Sys2Proof/Machine/HostProgram.lean ====
section
/-! DEFINITION. Host programs: issuing a command by its mnemonic, the bus transactions a statement encodes to, and the
pseudo-instructions (30_encoding.md R89, R91, R92). -/

namespace Sys2Proof.Machine

/-- `wr CMD, MNEMONIC` (R89): the command word of the mnemonic is written to CMD. -/
def Stmt.issue (i : Instr) : Stmt := .wr .cmd (encode i)

/-- The direction of a transaction (R91). -/
inductive TxnKind where
  | w
  | r
deriving DecidableEq, Repr

/-- A bus transaction `(kind, offset, data)` (R91). -/
structure Txn where
  kind : TxnKind
  offset : Nat
  data : Word64
deriving DecidableEq, Repr

/-- The transactions a statement encodes to, given the data its reads returned (R91): `none` where those data do not belong to
the statement. A `wait` is one or more reads of STATUS, the last the first with bit 0 clear; a `store` has no block encoding.
A raw `bus` access encodes as the `wr` or `rd` it amounts to when it is admitted. -/
def Stmt.transactions (p : Params) (st : Stmt) (returned : List Word64) : Option (List Txn) :=
  match st, returned with
  | .wr r v, [] => some [⟨.w, r.offset, v⟩]
  | .rd r, [d] => some [⟨.r, r.offset, d⟩]
  | .wait, d :: ds =>
    if (d :: ds).dropLast.all (fun x => x.getLsbD 0) && !((d :: ds).getLastD 0).getLsbD 0 then
      some ((d :: ds).map fun x => ⟨.r, Reg.offset .status, x⟩)
    else none
  | .store _ _, [] => some []
  | .bus a, returned =>
    match admitted p a, a.kind, returned with
    | some r, .write v, [] => some [⟨.w, r.offset, v⟩]
    | some r, .read, [d] => some [⟨.r, r.offset, d⟩]
    | _, _, _ => none
  | _, _ => none

/-- The pseudo-instructions (R92). -/
inductive Pseudo where
  | hash32 (a n : Word64)
  | hash64 (a n : Word64)
  | hash64s (a n s : Word64)
  | hash64ss (a n s0 s1 : Word64)
  | hash128 (a n : Word64)
  | hash128s (a n lo hi : Word64)
  | fold (lo hi : Word64)
  | crc128 (a n : Word64)
  | crc128s (a n lo hi : Word64)
  | crc256 (a n : Word64)
  | clrdone
deriving DecidableEq, Repr

/-- `wr SRC, a` / `wr LEN, n`. -/
def setWindow (a n : Word64) : List Stmt := [.wr .src a, .wr .len n]

/-- `wr SEED0, lo` / `wr SEED1, hi`. -/
def setSeeds (lo hi : Word64) : List Stmt := [.wr .seed0 lo, .wr .seed1 hi]

/-- `wr CMD, i` / `wait` / `rd STATUS`. -/
def issueAndWait (i : Instr) : List Stmt := [Stmt.issue i, .wait, .rd .status]

/-- The expansion of a pseudo-instruction (R92). -/
def Pseudo.expand : Pseudo → List Stmt
  | .hash32 a n => setWindow a n ++ issueAndWait .hash32 ++ [.rd .res0]
  | .hash64 a n => setWindow a n ++ issueAndWait .hash64 ++ [.rd .res0]
  | .hash64s a n s => setWindow a n ++ [.wr .seed0 s] ++ issueAndWait .hash64Seed ++ [.rd .res0]
  | .hash64ss a n s0 s1 => setWindow a n ++ setSeeds s0 s1 ++ issueAndWait .hash64Seeds ++ [.rd .res0]
  | .hash128 a n => setWindow a n ++ issueAndWait .hash128 ++ [.rd .res0, .rd .res1]
  | .hash128s a n lo hi => setWindow a n ++ setSeeds lo hi ++ issueAndWait .hash128Seed ++ [.rd .res0, .rd .res1]
  | .fold lo hi => setSeeds lo hi ++ issueAndWait .fold128 ++ [.rd .res0]
  | .crc128 a n => setWindow a n ++ issueAndWait .hashcrc128 ++ [.rd .res0, .rd .res1]
  | .crc128s a n lo hi =>
    setWindow a n ++ setSeeds lo hi ++ issueAndWait .hashcrc128Seed ++ [.rd .res0, .rd .res1]
  | .crc256 a n => setWindow a n ++ issueAndWait .hashcrc256 ++ [.rd .res0, .rd .res1, .rd .res2, .rd .res3]
  | .clrdone => [.wr .status 0x2]

end Sys2Proof.Machine
end

