-- ==== Sys2Proof/Safety.lean ====
section
/-! DEFINITION. What claims call a safe state and a finished run, in the spec's terms. -/

namespace Sys2Proof.Machine

/-- Every register of the window, in the order of its offsets (10_state.md R21). -/
def registerWindow (s : State) : List Word64 :=
  [regRead .cap s, regRead .ctrl s, regRead .status s, regRead .cmd s, regRead .src s, regRead .len s,
    regRead .seed0 s, regRead .seed1 s, regRead .res0 s, regRead .res1 s, regRead .res2 s, regRead .res3 s,
    regRead .faultAddr s]

/-- The run is over: every agent's program has finished and no command is pending. For one agent this is the end of a run of
70_reset_and_hazards.md R319. DESIGN CHOICE for several: R319 speaks of one host program, and the model asks that all have
finished (log 24). -/
def runOver (s : State) : Bool := !s.status.busy && s.hosts.all fun h => h.program.isEmpty

/-- The observation of a run: the values read, the register window, and irq. For one agent it is that of
70_reset_and_hazards.md R319. DESIGN CHOICE for several: one list of values for each agent (log 24). -/
structure Observation where
  reads : List (List Word64)
  window : List Word64
  irq : Bool
deriving DecidableEq, Repr

/-- What a state shows once the run is over (70_reset_and_hazards.md R319; for several agents log 24). -/
def observe (s : State) : Observation := ⟨s.hosts.map HostAgent.reads, registerWindow s, s.irq⟩

/-- The invariant every step keeps. `mem`: the source memory is in its canonical form. `busyClear`: "While BUSY is 1, DONE is
0 and CAUSE is 0" (10_state.md R24). `faultClear` and `faultAddress`: while IDLE, FAULT_ADDR is 0 for every cause but
BUS_FAULT, and for BUS_FAULT it is an unreadable, non-null address (10_state.md R32, 60_exceptions.md R264). -/
structure Inv (s : State) : Prop where
  mem : Memory.wf s.mem = true
  busyClear : s.status.busy = true → s.status.done = false ∧ s.status.cause = .ok
  faultClear : s.status.busy = false → s.status.cause ≠ .busFault → s.faultAddr = 0
  faultAddress : s.status.busy = false → s.status.cause = .busFault →
    s.faultAddr ≠ 0 ∧ isReadable s.params s.faultAddr.toNat = false

/-- The window of the latched command can be hashed (60_exceptions.md R264): a reference, inside the address space, every
byte readable; nothing made its results a draw (20_memory.md R59, R63). -/
structure WindowOk (s : State) : Prop where
  notNull : s.latched.src ≠ 0
  inSpace : s.latched.src.toNat + s.latched.len.toNat ≤ 2 ^ 64
  allReadable : ∀ i, i < s.latched.len.toNat → isReadable s.params (s.latched.src.toNat + i) = true
  unwritten : s.windowWritten = false
  noSideEffects : ∀ i, i < s.latched.len.toNat → isSideEffecting s.params (s.latched.src.toNat + i) = false

/-- `S` (20_memory.md R52): the list of the window's bytes, `S[i] = m(L.src + i)` for `0 <= i < L.len`. -/
def inputView (s : State) : View :=
  View.ofBytes ((List.range s.latched.len.toNat).map fun i => Memory.read s.mem (s.latched.src.toNat + i))

/-- What a completion leaves (60_exceptions.md R270): these results, this FAULT_ADDR and this cause, BUSY clear, DONE set;
OVR and everything else as they were. -/
def recordOf (cause : Cause) (results : Quad) (faultAddr : Word64) (s : State) : State :=
  { s with
    res := results
    faultAddr := faultAddr
    status := { busy := false, done := true, ovr := s.status.ovr, cause := cause } }

/-- The four draws numbered from `n` (60_exceptions.md R269). -/
def drawsFrom (n : Nat) : Quad :=
  ⟨Config.freeWord n, Config.freeWord (n + 1), Config.freeWord (n + 2), Config.freeWord (n + 3)⟩

/-- The input `A(n)` of 95_test_vectors.md: `n` bytes counting up from 0. -/
def countingInput (n : Nat) : View := View.ofBytes ((List.range n).map fun i => BitVec.ofNat 8 i)

/-- The input `0xFF x n` of 95_test_vectors.md. -/
def onesInput (n : Nat) : View := View.ofBytes (List.replicate n 0xff)

/-- It is agent `k`'s turn and its next statement is `st`. -/
def NextStmt (s : State) (k : Nat) (h : HostAgent) (st : Stmt) : Prop :=
  s.nextTurn = .host k ∧ s.hosts[k]? = some h ∧ h.stuck = false ∧ h.program.head? = some st

/-- It is some agent's turn and its next access writes `v` to the register `r`. -/
def NextWrites (s : State) (r : Reg) (v : Word64) : Prop :=
  ∃ k h, NextStmt s k h (.wr r v) ∨
    ∃ a, NextStmt s k h (.bus a) ∧ admitted s.params a = some r ∧ a.kind = .write v

end Sys2Proof.Machine
end

