-- ==== Sys2Proof/Certificates/Slice0/Obligations.lean ====
section
/-! DEFINITION. The statements for the provers. Each docstring names the rule of spec/ it formalises. -/

open Sys2Proof Sys2Proof.Machine

/-! ## Encoding -/

/-- 30_encoding.md R82: `decode(v)` is the opcode map, every other word is ILLEGAL, and the completion step completes an
ILLEGAL word with cause ILLEGAL_OP. -/
def Obligations.DecodeIsTheOpcodeMap : Prop :=
  (∀ (hasCrc : Bool) (v : Word64),
    (decode hasCrc v = .command .hash32 ↔ v = 0x01) ∧
    (decode hasCrc v = .command .hash64 ↔ v = 0x02) ∧
    (decode hasCrc v = .command .hash64Seed ↔ v = 0x03) ∧
    (decode hasCrc v = .command .hash64Seeds ↔ v = 0x04) ∧
    (decode hasCrc v = .command .hash128 ↔ v = 0x05) ∧
    (decode hasCrc v = .command .hash128Seed ↔ v = 0x06) ∧
    (decode hasCrc v = .command .fold128 ↔ v = 0x07) ∧
    (decode hasCrc v = .command .hashcrc128 ↔ v = 0x08 ∧ hasCrc = true) ∧
    (decode hasCrc v = .command .hashcrc128Seed ↔ v = 0x09 ∧ hasCrc = true) ∧
    (decode hasCrc v = .command .hashcrc256 ↔ v = 0x0A ∧ hasCrc = true) ∧
    ((∃ why, decode hasCrc v = .illegal why) ↔
      v = 0 ∨ 0x0B ≤ v.toNat ∨ (0x08 ≤ v.toNat ∧ v.toNat ≤ 0x0A ∧ hasCrc = false))) ∧
  (∀ (s : State) (why : Illegal), s.nextTurn = .block → s.status.busy = true →
    decode s.params.hasCrc s.latched.op = .illegal why →
    step s = .next (recordOf .illegalOp ⟨0, 0, 0, 0⟩ 0 s.takeTurn))

/-- Decode and encode agree, both ways: a word decodes to a command exactly when the command exists on the block and the word
is its command word (30_encoding.md R81 to R83, R88). -/
def Obligations.DecodeAndEncodeAgree : Prop :=
  ∀ (hasCrc : Bool) (v : Word64) (i : Instr),
    decode hasCrc v = .command i ↔ i.wellFormed hasCrc = true ∧ v = encode i

/-- The words of spec/opcode_table.json, written out, decode to their rows' commands; a reserved OP, a reserved bit and a word
of more than 64 bits to none. -/
def Obligations.OpcodeTableWordsDecode : Prop :=
  decodeTableWord 64 0x01 = some .hash32 ∧ decodeTableWord 64 0x02 = some .hash64 ∧
  decodeTableWord 64 0x03 = some .hash64Seed ∧ decodeTableWord 64 0x04 = some .hash64Seeds ∧
  decodeTableWord 64 0x05 = some .hash128 ∧ decodeTableWord 64 0x06 = some .hash128Seed ∧
  decodeTableWord 64 0x07 = some .fold128 ∧ decodeTableWord 64 0x08 = some .hashcrc128 ∧
  decodeTableWord 64 0x09 = some .hashcrc128Seed ∧ decodeTableWord 64 0x0A = some .hashcrc256 ∧
  decodeTableWord 64 0x00 = none ∧ decodeTableWord 64 0x0B = none ∧ decodeTableWord 64 0x102 = none ∧
  decodeTableWord 64 (2 ^ 64 + 1) = none

/-! ## The machine's step -/

/-- 60_exceptions.md R269: on the block's turn, while BUSY, the step runs the command the latched word decodes to. What the
step adds is only that the turn is taken off the schedule (log 10). -/
def Obligations.StepRunsTheDecodedCommand : Prop :=
  ∀ (s : State) (i : Instr), s.nextTurn = .block → s.status.busy = true →
    decode s.params.hasCrc s.latched.op = .command i → step s = exec i s.takeTurn

/-- 60_exceptions.md R263: a nonzero reserved field, a reserved OP or a CRC OP without `HAS_CRC` completes ILLEGAL_OP, before
every other cause (whatever the window is) and without the source memory having any part in it. -/
def Obligations.IllegalWordCompletesIllegalOp : Prop :=
  ∀ s : State, s.nextTurn = .block → s.status.busy = true →
    (s.latched.op >>> 8 ≠ 0 ∨ s.latched.op &&& 0xFF = 0 ∨ 0x0B ≤ (s.latched.op &&& 0xFF).toNat ∨
      (0x08 ≤ (s.latched.op &&& 0xFF).toNat ∧ s.params.hasCrc = false)) →
    step s = .next (recordOf .illegalOp ⟨0, 0, 0, 0⟩ 0 s.takeTurn)

/-- 60_exceptions.md R280: in phase IDLE the block takes no step; its turn passes (log 10). -/
def Obligations.IdleBlockTakesNoStep : Prop :=
  ∀ s : State, s.nextTurn = .block → s.status.busy = false → step s = .next s.takeTurn

/-- 60_exceptions.md R260, R269: the completion step is enabled exactly while BUSY, so a used-up schedule lets the block
complete first; when nothing can move, the step leaves the state as it is (the model's choice, log 10). -/
def Obligations.UsedUpScheduleLetsTheBlockComplete : Prop :=
  (∀ s : State, s.schedule = [] → s.status.busy = true → s.nextTurn = .block) ∧
  (∀ s : State, s.schedule = [] → s.status.busy = false → (∀ h ∈ s.hosts, h.ready = false) → step s = .next s) ∧
  (∀ s : State, s.schedule = [] → s.status.busy = false → ∀ h ∈ s.hosts, h.ready = true →
    ∃ k g, s.nextTurn = .host k ∧ s.hosts[k]? = some g ∧ g.ready = true ∧
      ∀ j g', j < k → s.hosts[j]? = some g' → g'.ready = false)

/-! ## The commands' results -/

/-- 41_hash32.md R150 on a window that can be hashed: RES0 is the zero-extended 32-bit hash, cause OK, everything else kept. -/
def Obligations.Hash32CompletesWithItsHash : Prop :=
  ∀ s : State, WindowOk s →
    exec .hash32 s = .next (recordOf .ok ⟨(cityHash32 (inputView s)).setWidth 64, 0, 0, 0⟩ 0 s)

/-- 42_hash64.md R170 to R172 on a window that can be hashed: the 64-bit hash, and the two seeded forms, in RES0. -/
def Obligations.Hash64CommandsCompleteWithTheirHash : Prop :=
  ∀ s : State, WindowOk s →
    exec .hash64 s = .next (recordOf .ok ⟨cityHash64 (inputView s), 0, 0, 0⟩ 0 s) ∧
    exec .hash64Seed s =
      .next (recordOf .ok ⟨hashLen16 (cityHash64 (inputView s) - k2) s.latched.seed0, 0, 0, 0⟩ 0 s) ∧
    exec .hash64Seeds s =
      .next (recordOf .ok ⟨hashLen16 (cityHash64 (inputView s) - s.latched.seed0) s.latched.seed1, 0, 0, 0⟩ 0 s)

/-- 43_hash128.md R200, R201 on a window that can be hashed: the pair in RES0 and RES1. -/
def Obligations.Hash128CommandsCompleteWithTheirHash : Prop :=
  ∀ s : State, WindowOk s →
    exec .hash128 s =
      .next (recordOf .ok ⟨(cityHash128 (inputView s)).lo, (cityHash128 (inputView s)).hi, 0, 0⟩ 0 s) ∧
    exec .hash128Seed s =
      .next (recordOf .ok
        ⟨(cityHash128WithSeed (inputView s) ⟨s.latched.seed0, s.latched.seed1⟩).lo,
          (cityHash128WithSeed (inputView s) ⟨s.latched.seed0, s.latched.seed1⟩).hi, 0, 0⟩ 0 s)

/-- 44_fold128.md R221, whole: FOLD128 is OP 0x07 and completes OK in every state with the fold of the latched seed pair
(40_primitives.md R113, written out), whatever SRC, LEN and the source memory hold; `(0, 0)` gives 0, equal halves give the
rule's formula, and the worked example. -/
def Obligations.Fold128CompletesInEveryState : Prop :=
  encode .fold128 = 0x07 ∧
  (∀ (h : Bool) (v : Word64), v >>> 8 ≠ 0 → decode h v ≠ .command .fold128) ∧
  (∀ s : State, ∃ a b r : Word64,
    a = (s.latched.seed0 ^^^ s.latched.seed1) * 0x9ddfea08eb382d69 ∧
    b = (s.latched.seed1 ^^^ (a ^^^ (a >>> 47))) * 0x9ddfea08eb382d69 ∧
    r = (b ^^^ (b >>> 47)) * 0x9ddfea08eb382d69 ∧
    exec .fold128 s = .next (recordOf .ok ⟨r, 0, 0, 0⟩ 0 s)) ∧
  fold128to64 ⟨0, 0⟩ = 0 ∧
  (∀ x : Word64, fold128to64 ⟨x, x⟩ = ((x * kMul) ^^^ ((x * kMul) >>> 47)) * kMul) ∧
  fold128to64 ⟨1, 2⟩ = 0x86668a560ec835a1

/-- 45_crc.md R240 to R242 on a window that can be hashed, on a block with `HAS_CRC` = 1: the portable hash up to 900 bytes,
above that the words the open `CRC256` gives, combined as the rules say. Nothing is assumed of `CRC256` (R232). -/
def Obligations.CrcCommandsCompleteWithTheirHash : Prop :=
  ∀ s : State, WindowOk s → s.params.hasCrc = true →
    ∃ q : Quad, q = Config.crc256 (inputView s).bytes ∧
    (s.latched.len.toNat ≤ 900 →
      exec .hashcrc128 s =
        .next (recordOf .ok ⟨(cityHash128 (inputView s)).lo, (cityHash128 (inputView s)).hi, 0, 0⟩ 0 s) ∧
      exec .hashcrc128Seed s =
        .next (recordOf .ok
          ⟨(cityHash128WithSeed (inputView s) ⟨s.latched.seed0, s.latched.seed1⟩).lo,
            (cityHash128WithSeed (inputView s) ⟨s.latched.seed0, s.latched.seed1⟩).hi, 0, 0⟩ 0 s)) ∧
    (900 < s.latched.len.toNat →
      exec .hashcrc128 s = .next (recordOf .ok ⟨q.r2, q.r3, 0, 0⟩ 0 s) ∧
      exec .hashcrc128Seed s =
        .next (recordOf .ok
          ⟨hashLen16 (s.latched.seed1 + q.r0) (s.latched.seed0 + q.r1 + q.r2),
            hashLen16 (rotr64 (s.latched.seed0 + q.r1) 32) ((s.latched.seed1 + q.r0) * k0 + q.r3), 0, 0⟩ 0 s)) ∧
    exec .hashcrc256 s = .next (recordOf .ok ⟨q.r0, q.r1, q.r2, q.r3⟩ 0 s)

/-- 45_crc.md R230, 60_exceptions.md R263: run on a block without `HAS_CRC`, a command of the CRC path completes ILLEGAL_OP
(log 14: the command's own meaning says so too, not only the decoder). -/
def Obligations.CrcCommandsNeedTheCapability : Prop :=
  ∀ (i : Instr) (s : State), i.usesCrc = true → s.params.hasCrc = false →
    exec i s = .next (recordOf .illegalOp ⟨0, 0, 0, 0⟩ 0 s)

/-! ## The window check and the other causes -/

/-- 60_exceptions.md R264: what `check_window()` raises, with the exact sum, the lowest unreadable address and the order
ABSENT, RANGE, BUS_FAULT; and every command that reads memory makes the check and completes with what it raises (on a window
nobody wrote while the command ran, log 5). -/
def Obligations.WindowCheckRaisesTheFirstCause : Prop :=
  (∀ (p : Params) (l : Latched),
    (checkWindow p l = some .absent ↔ l.src = 0) ∧
    (checkWindow p l = some .range ↔
      l.src ≠ 0 ∧ 0 < l.len.toNat ∧ 2 ^ 64 < l.src.toNat + l.len.toNat) ∧
    (∀ a : Word64, checkWindow p l = some (.busFault a) ↔
      l.src ≠ 0 ∧ (0 < l.len.toNat → l.src.toNat + l.len.toNat ≤ 2 ^ 64) ∧
      (∃ i, i < l.len.toNat ∧ a.toNat = l.src.toNat + i) ∧ isReadable p a.toNat = false ∧
      ∀ j, j < l.len.toNat → l.src.toNat + j < a.toNat → isReadable p (l.src.toNat + j) = true) ∧
    (checkWindow p l = none ↔
      l.src ≠ 0 ∧ (0 < l.len.toNat → l.src.toNat + l.len.toNat ≤ 2 ^ 64) ∧
      ∀ i, i < l.len.toNat → isReadable p (l.src.toNat + i) = true)) ∧
  (∀ (i : Instr) (s : State) (c : Completion), i.readsWindow = true → i.wellFormed s.params.hasCrc = true →
    s.windowWritten = false → checkWindow s.params s.latched = some c →
    exec i s = .next (recordOf c.cause ⟨0, 0, 0, 0⟩ c.faultAddr s))

/-- 60_exceptions.md R262, R264, R268, R270: a command that reads memory, on a window nobody wrote while it ran, completes
ABSENT, RANGE or BUS_FAULT with zero results; FAULT_ADDR is the lowest unreadable address for BUS_FAULT and 0 otherwise. -/
def Obligations.BadWindowCompletesWithItsCause : Prop :=
  ∀ (i : Instr) (s : State), i.readsWindow = true → i.wellFormed s.params.hasCrc = true → s.windowWritten = false →
    (s.latched.src = 0 → exec i s = .next (recordOf .absent ⟨0, 0, 0, 0⟩ 0 s)) ∧
    (s.latched.src ≠ 0 → 0 < s.latched.len.toNat → 2 ^ 64 < s.latched.src.toNat + s.latched.len.toNat →
      exec i s = .next (recordOf .range ⟨0, 0, 0, 0⟩ 0 s)) ∧
    (∀ a : Word64, s.latched.src ≠ 0 → s.latched.src.toNat + s.latched.len.toNat ≤ 2 ^ 64 →
      s.latched.src.toNat ≤ a.toNat → a.toNat < s.latched.src.toNat + s.latched.len.toNat →
      isReadable s.params a.toNat = false →
      (∀ x, s.latched.src.toNat ≤ x → x < a.toNat → isReadable s.params x = true) →
      exec i s = .next (recordOf .busFault ⟨0, 0, 0, 0⟩ a s))

/-- 20_memory.md R63 item 5, 60_exceptions.md R269: if a window byte was written while the command ran, RES0 to RES3 are draws
and everything else is what it would have been, but for the two fields of the model's own that say so: the counter of draws
(log 7) and the mark itself. That this holds for every cause is the model's reading (log 5). -/
def Obligations.WrittenWindowDrawsTheResultsOnly : Prop :=
  ∀ (i : Instr) (s : State), i.readsWindow = true → i.wellFormed s.params.hasCrc = true → s.windowWritten = true →
    ∃ t u, exec i s = .next t ∧ exec i { s with windowWritten := false } = .next u ∧
      t = { u with res := drawsFrom s.draws, draws := s.draws + 4, windowWritten := true }

/-- 20_memory.md R59, 93_implementation_defined.md U1: a window with a byte whose reads have side effects gives draws; the
cause is still decided by the window check (log 9). -/
def Obligations.SideEffectingWindowDrawsTheResults : Prop :=
  ∀ (i : Instr) (s : State) (k : Nat), i.readsWindow = true → i.wellFormed s.params.hasCrc = true →
    s.latched.src ≠ 0 → s.latched.src.toNat + s.latched.len.toNat ≤ 2 ^ 64 →
    (∀ j, j < s.latched.len.toNat → isReadable s.params (s.latched.src.toNat + j) = true) →
    k < s.latched.len.toNat → isSideEffecting s.params (s.latched.src.toNat + k) = true →
    exec i s = .next { recordOf .ok (drawsFrom s.draws) 0 s with draws := s.draws + 4 }

/-! ## Frames and what a command depends on -/

/-- 60_exceptions.md R270: every command, in every state, answers a next state in which only RES0 to RES3, FAULT_ADDR and
STATUS.BUSY, DONE and CAUSE may differ (and the model's own counter of draws, log 7); irq is then IRQ_EN. -/
def Obligations.CommandsChangeOnlyTheCompletionRecord : Prop :=
  ∀ (i : Instr) (s : State), ∃ t, exec i s = .next t ∧
    t.status.busy = false ∧ t.status.done = true ∧ t.status.ovr = s.status.ovr ∧ t.irq = s.irqEn ∧
    t.irqEn = s.irqEn ∧ t.src = s.src ∧ t.len = s.len ∧ t.seed0 = s.seed0 ∧ t.seed1 = s.seed1 ∧
    regRead .cap t = regRead .cap s ∧ t.params = s.params ∧ t.latched = s.latched ∧
    t.windowWritten = s.windowWritten ∧ t.hosts = s.hosts ∧ t.schedule = s.schedule ∧
    (∀ a, Memory.read t.mem a = Memory.read s.mem a) ∧
    (t.status.cause ≠ .busFault → t.faultAddr = 0)

/-- 70_reset_and_hazards.md R315: a write to SRC, LEN, SEED0, SEED1 or CTRL while a command runs makes no difference to it
(the completion and the write commute), and the next acceptance latches the new value. Where a completion draws its results,
the two sides draw alike because they share the model's counter of draws (log 7): the rules give a draw no law, and that
equality is the model's, not the spec's. -/
def Obligations.OperandWritesWhileBusyAreSafe : Prop :=
  (∀ (i : Instr) (r : Reg) (v : Word64) (s : State),
    r = .src ∨ r = .len ∨ r = .seed0 ∨ r = .seed1 ∨ r = .ctrl →
    ∃ t, exec i s = .next t ∧ exec i (regWrite r v s) = .next (regWrite r v t)) ∧
  (∀ (v w : Word64) (s : State),
    (accept w (regWrite .src v s)).latched.src = v ∧ (accept w (regWrite .len v s)).latched.len = v ∧
    (accept w (regWrite .seed0 v s)).latched.seed0 = v ∧ (accept w (regWrite .seed1 v s)).latched.seed1 = v)

/-- 60_exceptions.md R269, 00_scope.md R3: a completion depends only on `L`, the parameters, the bytes in the window and
whether the window was disturbed; not on the live registers, STATUS, earlier results or the rest of memory. -/
def Obligations.CompletionDependsOnlyOnLatchAndWindow : Prop :=
  ∀ (i : Instr) (s s' : State), s.latched = s'.latched → s.params = s'.params →
    s.windowWritten = s'.windowWritten → s.draws = s'.draws →
    (∀ a, s.latched.src.toNat ≤ a → a < s.latched.src.toNat + s.latched.len.toNat →
      Memory.read s.mem a = Memory.read s'.mem a) →
    ∃ t t', exec i s = .next t ∧ exec i s' = .next t' ∧
      t.res = t'.res ∧ t.faultAddr = t'.faultAddr ∧ t.status.cause = t'.status.cause

/-- 20_memory.md R52: "a command's result depends on the window's bytes alone and not on `L.src`". -/
def Obligations.RelocatedWindowGivesTheSameResult : Prop :=
  ∀ (i : Instr) (s s' : State), WindowOk s → WindowOk s' → s.params.hasCrc = s'.params.hasCrc →
    s.latched.len = s'.latched.len → s.latched.seed0 = s'.latched.seed0 → s.latched.seed1 = s'.latched.seed1 →
    (∀ j, j < s.latched.len.toNat →
      Memory.read s.mem (s.latched.src.toNat + j) = Memory.read s'.mem (s'.latched.src.toNat + j)) →
    ∃ t t', exec i s = .next t ∧ exec i s' = .next t' ∧ t.res = t'.res ∧ t.status.cause = t'.status.cause

/-! ## Registers, acceptance, interrupt, reset -/

/-- 60_exceptions.md R265: a CMD write while IDLE latches the operands, sets BUSY, clears DONE and CAUSE (so irq drops), and
keeps RES0 to RES3, FAULT_ADDR, OVR and CTRL. It does not look at the word: an illegal one completes ILLEGAL_OP later. -/
def Obligations.AcceptanceLatchesTheOperands : Prop :=
  ∀ (v : Word64) (s : State), s.status.busy = false →
    regWrite .cmd v s =
      { s with
        latched := { op := v, src := s.src, len := s.len, seed0 := s.seed0, seed1 := s.seed1 }
        status := { busy := true, done := false, ovr := s.status.ovr, cause := .ok }
        windowWritten := false } ∧
    (regWrite .cmd v s).irq = false ∧
    (∀ why, decode s.params.hasCrc v = .illegal why →
      blockStep (regWrite .cmd v s) = .next (recordOf .illegalOp ⟨0, 0, 0, 0⟩ 0 (regWrite .cmd v s)))

/-- 60_exceptions.md R267: a CMD write while BUSY is dropped and sets OVR, nothing else; OVR stays 1 until the host writes
STATUS with bit 2 set, or the block is reset. -/
def Obligations.CommandWhileBusyIsDropped : Prop :=
  (∀ (v : Word64) (s : State), s.status.busy = true →
    regWrite .cmd v s = { s with status := { s.status with ovr := true } }) ∧
  (∀ s t : State, step s = .next t → s.status.ovr = true → t.status.ovr = false →
    s.nextTurn = .reset ∨ ∃ v : Word64, v.getLsbD 2 = true ∧ NextWrites s .status v)

/-- 10_state.md R25: a host write of `v` to STATUS clears DONE if bit 1 of `v` is set and OVR if bit 2 is, and does nothing
else: bits 0, 3, 7:4 and 63:8 of `v` are ignored. -/
def Obligations.StatusWriteClearsOnlyDoneAndOvr : Prop :=
  ∀ (v : Word64) (s : State),
    (regWrite .status v s).status.word = s.status.word &&& ~~~(v &&& 0x6) ∧
    regWrite .status v s = { s with status := (regWrite .status v s).status } ∧
    (regWrite .status v s).status.busy = s.status.busy ∧ (regWrite .status v s).status.cause = s.status.cause ∧
    (∀ w : Word64, w &&& 0x6 = v &&& 0x6 → regWrite .status w s = regWrite .status v s) ∧
    (s.status.done = false → (regWrite .status 0x2 s) = s)

/-- 10_state.md R24, 60_exceptions.md R261: the fields of STATUS as read, and the codes of the causes. -/
def Obligations.StatusReadsItsFields : Prop :=
  ∀ s : State,
    (regRead .status s).getLsbD 0 = s.status.busy ∧ (regRead .status s).getLsbD 1 = s.status.done ∧
    (regRead .status s).getLsbD 2 = s.status.ovr ∧ (regRead .status s).getLsbD 3 = false ∧
    regRead .status s >>> 8 = 0 ∧
    (regRead .status s).extractLsb' 4 4 =
      (match s.status.cause with
        | .ok => 0
        | .absent => 1
        | .illegalOp => 2
        | .range => 3
        | .busFault => 4)

/-- 10_state.md R33: reserved offsets and reserved fields read 0 and ignore writes. -/
def Obligations.ReservedOffsetsAndFieldsReadZero : Prop :=
  ∀ (s : State) (v : Word64),
    (∀ k, (Reg.reserved k).offset = 0x68 + 8 * k.val ∧ regRead (.reserved k) s = 0 ∧ regWrite (.reserved k) v s = s) ∧
    regRead .cap s >>> 1 = 0 ∧ regWrite .cap v s = s ∧
    regRead .ctrl s >>> 1 = 0 ∧ regWrite .ctrl v s = regWrite .ctrl (v &&& 1) s ∧
    regRead .status s &&& 0xFFFFFFFFFFFFFF08 = 0 ∧ regWrite .status v s = regWrite .status (v &&& 0xF7) s

/-- 10_state.md R34: a host write to a read-only register changes no state. -/
def Obligations.ReadOnlyWritesAreIgnored : Prop :=
  ∀ (s : State) (v : Word64),
    regWrite .cap v s = s ∧ regWrite .res0 v s = s ∧ regWrite .res1 v s = s ∧ regWrite .res2 v s = s ∧
    regWrite .res3 v s = s ∧ regWrite .faultAddr v s = s

/-- 10_state.md R23, R26 to R30: CTRL takes bit 0 of the written value, SRC, LEN, SEED0 and SEED1 the whole value, and
nothing else changes, the latched operands included; each reads back, and CMD reads 0. -/
def Obligations.WritableRegistersTakeTheirValue : Prop :=
  ∀ (s : State) (v : Word64),
    regWrite .ctrl v s = { s with irqEn := v.getLsbD 0 } ∧ regRead .ctrl (regWrite .ctrl v s) = v &&& 1 ∧
    regWrite .src v s = { s with src := v } ∧ regRead .src (regWrite .src v s) = v ∧
    regWrite .len v s = { s with len := v } ∧ regRead .len (regWrite .len v s) = v ∧
    regWrite .seed0 v s = { s with seed0 := v } ∧ regRead .seed0 (regWrite .seed0 v s) = v ∧
    regWrite .seed1 v s = { s with seed1 := v } ∧ regRead .seed1 (regWrite .seed1 v s) = v ∧
    regRead .cmd s = 0

/-- 10_state.md R38: `irq = REG[STATUS].DONE & REG[CTRL].IRQ_EN`, in terms of the words the host reads. -/
def Obligations.IrqIsDoneAndEnable : Prop :=
  ∀ s : State, s.irq = ((regRead .status s).getLsbD 1 && (regRead .ctrl s).getLsbD 0)

/-- 10_state.md R43: the register values after reset, for an instance with any parameters; phase IDLE and irq 0. That
`State.reset` is the instance with `Params.default` is the model's choice (log 2). -/
def Obligations.ResetStateHasTheResetValues : Prop :=
  (∀ p : Params,
    registerWindow (State.init p) = [if p.hasCrc then 1 else 0, 0, 0, 0, 0, 0, 0, 0, 0, 0, 0, 0, 0] ∧
    (State.init p).irq = false ∧ (State.init p).status.busy = false ∧ (State.init p).params = p) ∧
  State.reset = State.init Params.default

/-- 70_reset_and_hazards.md R300: reset, in any state, BUSY or not, puts every register at its reset value and the block in
phase IDLE with irq 0, and changes neither source memory nor the instance's parameters. A running command is abandoned: no
completion step follows (R301). There is no software reset: no register write ends a command or clears a result. -/
def Obligations.ResetStepRestoresTheRegisters : Prop :=
  (∀ s : State, s.nextTurn = .reset → ∃ t, step s = .next t ∧
    registerWindow t = [if s.params.hasCrc then 1 else 0, 0, 0, 0, 0, 0, 0, 0, 0, 0, 0, 0, 0] ∧
    t.status.busy = false ∧ t.irq = false ∧ blockStep t = .next t ∧
    t.mem = s.mem ∧ t.params = s.params ∧ t.hosts = s.hosts) ∧
  (∀ (r : Reg) (v : Word64) (s : State),
    (s.status.busy = true → (regWrite r v s).status.busy = true) ∧
    (regWrite r v s).res = s.res ∧ (regWrite r v s).faultAddr = s.faultAddr)

/-! ## Whole-machine rules -/

/-- The invariant holds at reset, for an instance with any parameters. -/
def Obligations.InvariantHoldsAtReset : Prop := Inv State.reset ∧ ∀ p : Params, Inv (State.init p)

/-- Every step keeps the invariant: the source memory stays in canonical form; while BUSY, DONE and CAUSE are 0
(10_state.md R24); while IDLE, FAULT_ADDR is 0 or the unreadable non-null address of a BUS_FAULT (R32, 60 R264). -/
def Obligations.EveryStepKeepsTheInvariant : Prop :=
  ∀ s t : State, Inv s → step s = .next t → Inv t

/-- 10_state.md R37: acceptance, which is a CMD write, moves IDLE to BUSY; completion moves BUSY to IDLE; no other step but
reset, which forces IDLE, changes the phase. After a CMD write the block is BUSY either way. -/
def Obligations.PhaseChangesOnlyByAcceptanceCompletionReset : Prop :=
  ∀ s t : State, step s = .next t →
    (s.status.busy = false → t.status.busy = true →
      ∃ v : Word64, NextWrites s .cmd v ∧ t.latched = ⟨v, s.src, s.len, s.seed0, s.seed1⟩) ∧
    (s.status.busy = true → t.status.busy = false →
      (s.nextTurn = .block ∧ t.status.done = true) ∨ s.nextTurn = .reset) ∧
    (s.nextTurn = .block → t.status.busy = false) ∧ (s.nextTurn = .reset → t.status.busy = false) ∧
    (∀ v : Word64, NextWrites s .cmd v → t.status.busy = true)

/-- 10_state.md R31, R32: only a completion writes RES0 to RES3 and FAULT_ADDR (reset aside, 70 R300); between completions
they hold the last completion's values. -/
def Obligations.ResultsChangeOnlyByCompletionOrReset : Prop :=
  ∀ s t : State, step s = .next t → t.res ≠ s.res ∨ t.faultAddr ≠ s.faultAddr →
    (s.nextTurn = .block ∧ s.status.busy = true) ∨ s.nextTurn = .reset

/-- 20_memory.md R50: the block never writes source memory. A step changes it only by a host's `store`, and then only the byte
at the address the statement names. -/
def Obligations.OnlyHostStoresChangeSourceMemory : Prop :=
  ∀ s t : State, step s = .next t →
    t.mem = s.mem ∨
    ∃ k h a b rest, NextStmt s k h (.store a (b :: rest)) ∧ t.mem = Memory.write s.mem a b ∧
      (∀ x, x ≠ a → Memory.read t.mem x = Memory.read s.mem x)

/-- 10_state.md R22: CAP reads `HAS_CRC` in bit 0 and 0 above, a write to it is ignored, and its value is the same at every
later time; no step changes any parameter of the instance (00_scope.md R6, log 1). -/
def Obligations.CapabilityNeverChanges : Prop :=
  (∀ s : State, regRead .cap s = if s.params.hasCrc then 1 else 0) ∧
  (∀ (s : State) (v : Word64), regWrite .cap v s = s) ∧
  (∀ s t : State, step s = .next t → t.params = s.params ∧ regRead .cap t = regRead .cap s)

/-- 70_reset_and_hazards.md R311, as far as one deterministic machine can say it: from every state with a command accepted,
whatever order of turns the schedule holds and whatever the agents do, there is a step, no later than the schedule is long,
that completes the command and sets DONE, unless a reset the schedule holds abandons it first. The bound is the schedule's,
not the spec's (log 10). -/
def Obligations.AcceptedCommandCompletes : Prop :=
  ∀ s : State, s.status.busy = true →
    ∃ n u t, n ≤ s.schedule.length ∧
      Sys2Proof.core.run n s = .next u ∧ u.status.busy = true ∧ step u = .next t ∧
      Sys2Proof.core.run (n + 1) s = .next t ∧ t.status.busy = false ∧
      ((u.nextTurn = .block ∧ t.status.done = true) ∨ (u.nextTurn = .reset ∧ Turn.reset ∈ s.schedule))

/-- 10_state.md R36, 93_implementation_defined.md U5: while IDLE nothing reads the latched operands: two states that differ in
them alone take the same step, and differ in them alone or not at all after it. -/
def Obligations.LatchIsUnobservableWhileIdle : Prop :=
  ∀ (s : State) (l : Latched), s.status.busy = false →
    ∃ t t', step s = .next t ∧ step { s with latched := l } = .next t' ∧
      (t' = t ∨ (t.status.busy = false ∧ t' = { t with latched := l }))

/-! ## Host agents -/

/-- 20_memory.md R60, 10_state.md R21: an access is admitted exactly when it is 64 bits wide at `REG_BASE` plus a register's
offset, a multiple of 8 below 0x100, and it then reaches that register. That a system address has 64 bits is the model's choice
(log 23). -/
def Obligations.AdmittedAccessesAreAlignedWords : Prop :=
  ∀ (p : Params) (a : BusAccess),
    (∀ r : Reg, admitted p a = some r ↔ a.width = 8 ∧ a.addr.toNat = (regBase p).toNat + r.offset) ∧
    ((∃ r, admitted p a = some r) ↔
      a.width = 8 ∧ (regBase p).toNat ≤ a.addr.toNat ∧ a.addr.toNat < (regBase p).toNat + 0x100 ∧
      (a.addr.toNat - (regBase p).toNat) % 8 = 0) ∧
    (regBase p).toNat % 0x100 = 0

/-- 20_memory.md R60, 93_implementation_defined.md U4: after an access that is not admitted the block is as it was and the
agent takes no further step (log 11). -/
def Obligations.UnadmittedAccessSticksTheAgent : Prop :=
  (∀ (s : State) (k : Nat) (h : HostAgent) (a : BusAccess), NextStmt s k h (.bus a) → admitted s.params a = none →
    step s = .next { s.takeTurn with hosts := s.hosts.set k { h with stuck := true } }) ∧
  (∀ (s : State) (k : Nat) (h : HostAgent), s.nextTurn = .host k → s.hosts[k]? = some h → h.stuck = true →
    step s = .next s.takeTurn)

/-- 30_encoding.md R90, 20_memory.md R60: `wr` writes the register, `rd` records the value read and changes nothing else, `wait`
ends exactly when BUSY reads 0, an admitted access at a system address acts as `wr` or `rd`, and a `store` with no bytes left
is over. Three points are the model's: the polls of a `wait` are not recorded, only the values of `rd` (read from
70_reset_and_hazards.md R319, log 18); the statement `bus` is its own spelling of an access (log 11); and the end of a `store`
is a step of its own (log 12). -/
def Obligations.HostStatementsAccessTheirRegister : Prop :=
  ∀ (s : State) (k : Nat) (h : HostAgent),
    (∀ r v, NextStmt s k h (.wr r v) →
      step s = .next { regWrite r v s.takeTurn with hosts := s.hosts.set k { h with program := h.program.tail } }) ∧
    (∀ r, NextStmt s k h (.rd r) →
      step s = .next { s.takeTurn with
        hosts := s.hosts.set k { h with program := h.program.tail, reads := h.reads ++ [regRead r s] } }) ∧
    (NextStmt s k h .wait →
      (s.status.busy = true → step s = .next s.takeTurn) ∧
      (s.status.busy = false →
        step s = .next { s.takeTurn with hosts := s.hosts.set k { h with program := h.program.tail } })) ∧
    (∀ a r v, NextStmt s k h (.bus a) → admitted s.params a = some r → a.kind = .write v →
      step s = .next { regWrite r v s.takeTurn with hosts := s.hosts.set k { h with program := h.program.tail } }) ∧
    (∀ a r, NextStmt s k h (.bus a) → admitted s.params a = some r → a.kind = .read →
      step s = .next { s.takeTurn with
        hosts := s.hosts.set k { h with program := h.program.tail, reads := h.reads ++ [regRead r s] } }) ∧
    (∀ a, NextStmt s k h (.store a []) →
      step s = .next { s.takeTurn with hosts := s.hosts.set k { h with program := h.program.tail } })

/-- 30_encoding.md R90, 60_exceptions.md R269, 20_memory.md R63 item 5: a `store` step writes its first byte, and while the block
is BUSY marks the latched window as written if that byte lies in it; a byte above the address space is never written and leaves
the agent stuck, the rest of the machine as it was. The model's own here: the mark `windowWritten` (log 5); that a byte written
with the value it already held counts as written, R269's word, where R63 says "changes" (log 6); and one byte a step and the
stuck agent (log 12). -/
def Obligations.StoreWritesOneByteAndMarksTheWindow : Prop :=
  ∀ (s : State) (k : Nat) (h : HostAgent) (a : Nat) (b : Byte) (rest : List Byte),
    NextStmt s k h (.store a (b :: rest)) → Memory.wf s.mem = true →
    (a < 2 ^ 64 → ∃ t, step s = .next t ∧ Memory.read t.mem a = b ∧
      (∀ x, x ≠ a → Memory.read t.mem x = Memory.read s.mem x) ∧
      t = { s.takeTurn with
        mem := t.mem
        hosts := s.hosts.set k { h with program := .store (a + 1) rest :: h.program.tail }
        windowWritten := t.windowWritten } ∧
      (t.windowWritten = true ↔ s.windowWritten = true ∨
        (s.status.busy = true ∧ s.latched.src.toNat ≤ a ∧ a < s.latched.src.toNat + s.latched.len.toNat))) ∧
    (2 ^ 64 ≤ a → step s = .next { s.takeTurn with hosts := s.hosts.set k { h with stuck := true } })

/-! ## The datapath -/

/-- 20_memory.md R53, R54, R57: the fetches are little-endian, the byte at the lowest address least significant. -/
def Obligations.FetchesAreLittleEndian : Prop :=
  ∀ (s : View) (p : Nat),
    (s.fetch32 p).toNat =
      (s.byte p).toNat + 2 ^ 8 * (s.byte (p + 1)).toNat + 2 ^ 16 * (s.byte (p + 2)).toNat +
        2 ^ 24 * (s.byte (p + 3)).toNat ∧
    (s.fetch64 p).toNat =
      (s.byte p).toNat + 2 ^ 8 * (s.byte (p + 1)).toNat + 2 ^ 16 * (s.byte (p + 2)).toNat +
        2 ^ 24 * (s.byte (p + 3)).toNat + 2 ^ 32 * (s.byte (p + 4)).toNat + 2 ^ 40 * (s.byte (p + 5)).toNat +
        2 ^ 48 * (s.byte (p + 6)).toNat + 2 ^ 56 * (s.byte (p + 7)).toNat ∧
    s.fetch32 p = (s.fetch64 p).setWidth 32

/-- 40_primitives.md R102 to R104: the rotations are right rotations for every amount below the width, 0 included. -/
def Obligations.RotationsAreRightRotations : Prop :=
  (∀ (v : Word32) (r : Nat), r < 32 → ∀ i, i < 32 → (rotr32 v r).getLsbD i = v.getLsbD ((i + r) % 32)) ∧
  (∀ (v : Word64) (r : Nat), r < 64 → ∀ i, i < 64 → (rotr64 v r).getLsbD i = v.getLsbD ((i + r) % 64)) ∧
  (∀ v : Word32, rotr32 v 0 = v) ∧ (∀ v : Word64, rotr64 v 0 = v)

/-- 40_primitives.md R106, R107: the byte swaps reverse the byte order, with the rules' examples. -/
def Obligations.ByteSwapsReverseTheBytes : Prop :=
  (∀ (v : Word32) (i : Nat), i < 4 → (bswap32 v).extractLsb' (8 * i) 8 = v.extractLsb' (24 - 8 * i) 8) ∧
  (∀ (v : Word64) (i : Nat), i < 8 → (bswap64 v).extractLsb' (8 * i) 8 = v.extractLsb' (56 - 8 * i) 8) ∧
  bswap32 0x01234567 = 0x67452301 ∧ bswap64 0x0123456789abcdef = 0xefcdab8967452301

/-- 40_primitives.md R114 to R117: the fold's corner cases, `HashLen16` as the multiplier form with `kMul`, and the odd
length-dependent multiplier. -/
def Obligations.CombinerIdentities : Prop :=
  hash128to64 ⟨0, 0⟩ = 0 ∧
  (∀ x : Word64, hash128to64 ⟨x, x⟩ = ((x * kMul) ^^^ ((x * kMul) >>> 47)) * kMul) ∧
  (∀ u v : Word64, hashLen16 u v = hashLen16m u v kMul ∧ hashLen16 u v = hash128to64 ⟨u, v⟩) ∧
  (∀ mul : Word64, hashLen16m 0 0 mul = 0) ∧ (∀ n : Word64, (mulLen n).getLsbD 0 = true)

/-- 41_hash32.md R148: every fetch of the 32-bit hash lies inside the view: what lies outside has no part in the result. -/
def Obligations.Hash32FetchesStayInsideTheView : Prop :=
  ∀ s t : View, s.bytes = t.bytes → cityHash32 s = cityHash32 t

/-- 42_hash64.md R167: every fetch of the 64-bit hash lies inside the view. -/
def Obligations.Hash64FetchesStayInsideTheView : Prop :=
  ∀ s t : View, s.bytes = t.bytes → cityHash64 s = cityHash64 t

/-- 43_hash128.md R202: every fetch of the 128-bit hash, seeded or not, lies inside the view it is made on. -/
def Obligations.Hash128FetchesStayInsideTheView : Prop :=
  ∀ (s t : View) (seed : Pair), s.bytes = t.bytes →
    cityHash128 s = cityHash128 t ∧ cityHash128WithSeed s seed = cityHash128WithSeed t seed

/-- 45_crc.md R232 (b), R239: the candidate for `CRC256` reads no byte outside its input. The candidate is UNVERIFIED; this says
nothing of its values (log 8). -/
def Obligations.CrcCandidateFetchesStayInsideTheView : Prop :=
  ∀ s t : View, s.bytes = t.bytes → crc256Candidate s = crc256Candidate t

/-- 41_hash32.md R146, 42_hash64.md R166, 43_hash128.md R194, R196, R198, 60_exceptions.md R281: each loop runs its fixed number
of chunks, in the rules' order and at the rules' offsets: from the front, the 128-bit tail from the back. -/
def Obligations.LoopsRunTheirChunksInOrder : Prop :=
  (∀ (s : View), hash32Long s =
    hash32Finish ((List.range ((s.len - 1) / 20)).foldl (fun acc i => hash32Chunk s (20 * i) acc) (hash32LongSeed s))) ∧
  (∀ (s : View), hash64Long s =
    hash64Finish ((List.range ((s.len - 1) / 64)).foldl (fun acc i => step64 s (64 * i) acc) (hash64LongSeed s))) ∧
  (∀ (s : View) (seed : Pair), 16 < s.len → cityMurmur s seed =
    murmurFinish ((List.range ((s.len - 1) / 16)).foldl (fun acc i => murmurStep s (16 * i) acc) (murmurSeed s seed))) ∧
  (∀ (s : View) (seed : Pair), hash128Long s seed =
    hash128Finish
      ((List.range ((s.len - 128 * (s.len / 128) + 31) / 32)).foldl
        (fun acc j => hash128TailStep s (s.len - (32 * j + 32)) acc)
        (hash128Mix
          ((List.range (s.len / 128)).foldl
            (fun acc i => step64 s (128 * i + 64) (step64 s (128 * i) acc)) (hash128LongSeed s seed)))))

/-- 42_hash64.md R173: HASH64_SEED with SEED0 = `x` gives the same RES0 as HASH64_SEEDS with SEED0 = `k2` and SEED1 = `x`, for
every window and every seed. Where the window was written or has side-effecting reads, both results are draws, equal only
because the two runs share the model's counter of draws (log 7): there the equality is the model's, not the spec's. -/
def Obligations.SeedComposability : Prop :=
  ∀ (s : State) (x y : Word64),
    ∃ t t', exec .hash64Seed { s with latched := { s.latched with seed0 := x, seed1 := y } } = .next t ∧
      exec .hash64Seeds { s with latched := { s.latched with seed0 := 0x9ae16a3b2f90404f, seed1 := x } } = .next t' ∧
      t.res.r0 = t'.res.r0

/-- 45_crc.md R243: up to 900 bytes the CRC-path 128-bit commands are the portable ones, for every `CRC256`; and turning the
capability on changes no result of OPs 0x01 to 0x07. Where the window was written or has side-effecting reads, the results
are draws, equal only because the two runs share the model's counter of draws (log 7): there the equality is the model's, not
the spec's. -/
def Obligations.CrcPathAgreesWithThePortablePath : Prop :=
  (∀ s : State, s.params.hasCrc = true → s.latched.len.toNat ≤ 900 →
    exec .hashcrc128 s = exec .hash128 s ∧ exec .hashcrc128Seed s = exec .hash128Seed s) ∧
  (∀ (f : List Byte → Quad) (v : View) (seed : Pair), v.len ≤ 900 →
    cityHashCrc128 f v = cityHash128 v ∧ cityHashCrc128WithSeed f v seed = cityHash128WithSeed v seed) ∧
  (∀ (i : Instr) (s : State) (b : Bool), i.usesCrc = false →
    ∃ t, exec i s = .next t ∧
      exec i { s with params := { s.params with hasCrc := b } } =
        .next { t with params := { t.params with hasCrc := b } })

/-- 41_hash32.md R142, 42_hash64.md R161, R171, 43_hash128.md R194, 60_exceptions.md R264: a zero-length window at any non-null
address, readable or not, completes OK with the constants of the empty input; HASH64_SEED with seed 0 then gives 0. -/
def Obligations.EmptyWindowGivesTheConstants : Prop :=
  ∀ s : State, s.latched.src ≠ 0 → s.latched.len = 0 → s.windowWritten = false →
    exec .hash32 s = .next (recordOf .ok ⟨0xdc56d17a, 0, 0, 0⟩ 0 s) ∧
    exec .hash64 s = .next (recordOf .ok ⟨0x9ae16a3b2f90404f, 0, 0, 0⟩ 0 s) ∧
    exec .hash128 s = .next (recordOf .ok ⟨0x3df09dfc64c09a2b, 0x3cb540c392e51e29, 0, 0⟩ 0 s) ∧
    (s.latched.seed0 = 0 → exec .hash64Seed s = .next (recordOf .ok ⟨0, 0, 0, 0⟩ 0 s))

/-- 41_hash32.md R142, 42_hash64.md R161: on a one-byte view the 32-bit hash reads the byte signed and the 64-bit hash reads it
unsigned. -/
def Obligations.OneByteIsSignedIn32AndUnsignedIn64 : Prop :=
  ∀ (s : View) (x : Byte), s.bytes = [x] →
    cityHash32 s = fmix (mur (x.signExtend 32) (mur 1 (9 ^^^ x.signExtend 32))) ∧
    cityHash64 s =
      shiftMix (((x.setWidth 64 + (x.setWidth 64 <<< 8)) * k2) ^^^ ((1 + (x.setWidth 64 <<< 2)) * k0)) * k2

/-- 45_crc.md R231: only the low 32 bits of the running value matter to the CRC step, its result fits 32 bits, it is linear
over exclusive or, as a CRC without inversion is, and it has the rule's four examples and the standard check value of
CRC-32C. -/
def Obligations.CrcStepIsALinear32BitStep : Prop :=
  (∀ c v : Word64, crc32cU64 c v = crc32cU64 (c &&& 0xffffffff) v ∧ crc32cU64 c v >>> 32 = 0) ∧
  (∀ c d v w : Word64, crc32cU64 (c ^^^ d) (v ^^^ w) = crc32cU64 c v ^^^ crc32cU64 d w) ∧
  crc32cU64 0 0 = 0 ∧ crc32cU64 0xffffffff 0 = 0x73d74d75 ∧ crc32cU64 0 1 = 0x493c7d27 ∧
  crc32cU64 0 0x0123456789abcdef = 0xe9986aa9 ∧
  ~~~ ([0x31, 0x32, 0x33, 0x34, 0x35, 0x36, 0x37, 0x38, 0x39].foldl crcByte 0xffffffff) = 0xe3069283

/-! ## The regimes of length -/

/-- 41_hash32.md R141, 42_hash64.md R160, 43_hash128.md R191, R192: the dispatch by length, with the closed-form regimes written
out (R142 to R144, R161 to R163, R194's short form); the long regimes are those of `LoopsRunTheirChunksInOrder`. -/
def Obligations.LengthSelectsTheRegime : Prop :=
  ∀ (s : View) (seed : Pair),
    (s.len ≤ 4 →
      let bc := s.bytes.foldl
        (fun (p : Word32 × Word32) x => (p.1 * c1 + x.signExtend 32, p.2 ^^^ (p.1 * c1 + x.signExtend 32))) (0, 9)
      cityHash32 s = fmix (mur bc.1 (mur s.n32 bc.2))) ∧
    (5 ≤ s.len → s.len ≤ 12 →
      cityHash32 s =
        fmix (mur (9 + s.fetch32 ((s.len >>> 1) &&& 4))
          (mur (s.n32 * 5 + s.fetch32 (s.len - 4)) (mur (s.n32 + s.fetch32 0) (s.n32 * 5))))) ∧
    (13 ≤ s.len → s.len ≤ 24 →
      cityHash32 s =
        fmix (mur (s.fetch32 (s.len - 4)) (mur (s.fetch32 0) (mur (s.fetch32 (s.len >>> 1))
          (mur (s.fetch32 (s.len - 8)) (mur (s.fetch32 4) (mur (s.fetch32 ((s.len >>> 1) - 4)) s.n32))))))) ∧
    (25 ≤ s.len → cityHash32 s = hash32Long s) ∧
    (s.len = 0 → cityHash64 s = k2) ∧
    (1 ≤ s.len → s.len ≤ 3 →
      let y : Word32 := (s.byte 0).setWidth 32 + ((s.byte (s.len >>> 1)).setWidth 32 <<< 8)
      let z : Word32 := s.n32 + ((s.byte (s.len - 1)).setWidth 32 <<< 2)
      cityHash64 s = shiftMix ((y.setWidth 64 * k2) ^^^ (z.setWidth 64 * k0)) * k2) ∧
    (4 ≤ s.len → s.len ≤ 7 →
      cityHash64 s =
        hashLen16m (s.len64 + ((s.fetch32 0).setWidth 64 <<< 3)) ((s.fetch32 (s.len - 4)).setWidth 64) (mulLen s.len64)) ∧
    (8 ≤ s.len → s.len ≤ 16 →
      let mul := mulLen s.len64
      let a := s.fetch64 0 + k2
      let b := s.fetch64 (s.len - 8)
      cityHash64 s = hashLen16m (rotr64 b 37 * mul + a) ((rotr64 a 25 + b) * mul) mul) ∧
    (17 ≤ s.len → s.len ≤ 32 →
      let mul := mulLen s.len64
      let a := s.fetch64 0 * k1
      let b := s.fetch64 8
      let c := s.fetch64 (s.len - 8) * mul
      let d := s.fetch64 (s.len - 16) * k2
      cityHash64 s = hashLen16m (rotr64 (a + b) 43 + rotr64 c 30 + d) (a + rotr64 (b + k2) 18 + c) mul) ∧
    (33 ≤ s.len → s.len ≤ 64 →
      let mul := mulLen s.len64
      let a := s.fetch64 0 * k2
      let b := s.fetch64 8
      let c := s.fetch64 (s.len - 24)
      let d := s.fetch64 (s.len - 32)
      let e := s.fetch64 16 * k2
      let f := s.fetch64 24 * 9
      let g := s.fetch64 (s.len - 8)
      let h := s.fetch64 (s.len - 16) * mul
      let u := rotr64 (a + g) 43 + (rotr64 b 30 + c) * 9
      let v := ((a + g) ^^^ d) + f + 1
      let w := bswap64 ((u + v) * mul) + h
      let x := rotr64 (e + f) 42 + c
      let y := (bswap64 ((v + w) * mul) + g) * mul
      let z := e + f + c
      let a' := bswap64 ((x + z) * mul + y) + b
      cityHash64 s = shiftMix ((z + a') * mul + d + h) * mul + x) ∧
    (65 ≤ s.len → cityHash64 s = hash64Long s) ∧
    (s.len ≤ 16 →
      let a := shiftMix (seed.lo * k1) * k1
      let c := seed.hi * k1 + hashLen0to16 s
      let d := shiftMix (a + (if 8 ≤ s.len then s.fetch64 0 else c))
      cityHash128WithSeed s seed =
        ⟨hashLen16 a c ^^^ hashLen16 d seed.hi, hashLen16 (hashLen16 d seed.hi) (hashLen16 a c)⟩) ∧
    (s.len ≤ 127 → cityHash128WithSeed s seed = cityMurmur s seed) ∧
    (128 ≤ s.len → cityHash128WithSeed s seed = hash128Long s seed) ∧
    (s.len ≤ 15 → cityHash128 s = cityHash128WithSeed s ⟨k0, k1⟩) ∧
    (16 ≤ s.len → cityHash128 s = cityHash128WithSeed (s.drop 16) ⟨s.fetch64 0, s.fetch64 8 + k0⟩)

/-- 95_test_vectors.md sections 2.2, 2.3, 2.5, 2.6 and 2.8: the rows on both sides of every boundary those sections name and of
E8: the regimes, the sub-cases, the chunk counts of the loops, the 128-bit tail (129 and 300 seeded, 255 to 257 unseeded), and
the 900-byte threshold of the CRC path, for every `CRC256`. The values are derived from the rules, not from a product (log 16).
No row of `CRC256` itself is here (log 8). -/
def Obligations.BoundaryRowsHaveTheirValues : Prop :=
  [4, 5, 12, 13, 24, 25, 44, 45, 64, 65].map (fun n => cityHash32 (countingInput n)) =
    [0x616e1132, 0xfe6e37d4, 0xde42ef1c, 0x8add7404, 0x60cf6aa4, 0x2e6ddf78, 0xfdb76981, 0x716e5ed0, 0x53d2a4c3,
      0x7a49977d] ∧
  [4, 5, 12, 13, 24, 25, 44, 45, 64, 65].map (fun n => cityHash32 (onesInput n)) =
    [0x261cb784, 0x44af5ead, 0x4f9a14b7, 0xa563cb8f, 0x18ca66e1, 0x5120f1d7, 0xa4a1fb0e, 0xfcbd7d00, 0x10e08427,
      0x7a95ecd4] ∧
  [0, 1, 3, 4, 7, 8, 16, 17, 32, 33, 64, 65, 128, 129, 192, 193].map (fun n => cityHash64 (countingInput n)) =
    [0x9ae16a3b2f90404f, 0xbe6056edf5e94b54, 0x94a13d22e9eba49a, 0x82bffd898958e540, 0xa2e0bff20db0a6a1,
      0xad5a13e1e8e93b98, 0x0efd25a0a34156d4, 0xbbb6a6f8f20d1f1c, 0x1a9d8199972cdf49, 0x46e1378cbc22daba,
      0xe99ab80f5ec7dca5, 0xac589c990483dd2e, 0x10b153630af1f395, 0x46be8f236f918770, 0xd5ba92662e2d5074,
      0xe56476a1931c992a] ∧
  [0, 1, 3, 4, 7, 8, 16, 17, 32, 33, 64, 65, 128, 129, 192, 193].map (fun n => cityHash64 (onesInput n)) =
    [0x9ae16a3b2f90404f, 0x21a855c065a526e7, 0x2d6dbb384a3d3094, 0x2f8fc2fd6291b6a4, 0xcb5dfe0ad2d1bd1d,
      0x2fffe7a41fb59155, 0xef2c139c8ec2f065, 0xaddacf9442caf4fc, 0x37566067f38700be, 0x0dbd04f3b180d20d,
      0x0852f0e9dc20b12e, 0xc61122e9dfff5da4, 0x377a731cc34ce870, 0x762b8d0da8d78dad, 0xf4881d6b6265bafa,
      0x063d53ca96d40ed2] ∧
  [15, 16, 17, 31, 32, 33, 143, 144, 255, 256, 257].map (fun n => cityHash128 (countingInput n)) =
    [⟨0x527464a5d6763187, 0xb06b4aef76dba14b⟩, ⟨0x2d2cabe186699639, 0x1483444197d80b51⟩,
      ⟨0x65daaab406671434, 0x1133848ad55b7e28⟩, ⟨0xd9e3b6604307af1b, 0x2d05375249455140⟩,
      ⟨0x2e7084c66b496d21, 0x70c7a8c6dfda37f1⟩, ⟨0x000e6231c59d57c9, 0xdd7bc7669361e16e⟩,
      ⟨0x559af9fa52171a01, 0xe669f284a5e352cc⟩, ⟨0x11a3eb8dc4c0134e, 0xcda5dffa39190336⟩,
      ⟨0x606aa1233aabbd56, 0x527af4357baa9a09⟩, ⟨0xb72c499bfaa73e30, 0x01f78204ab254b95⟩,
      ⟨0x376dc14b15734d40, 0x0137f5b08f988a2d⟩] ∧
  [16, 17, 127, 128, 129, 300].map (fun n => cityHash128WithSeed (countingInput n) ⟨1, 2⟩) =
    [⟨0xd76fa5d8d82d3071, 0xfb3d700edcf0b977⟩, ⟨0xf4451117525e1ec0, 0xf336e5b5e0fe8972⟩,
      ⟨0xb2c48d36d927e4c6, 0xfc42b8576d713ea9⟩, ⟨0xb5a40790dca0465e, 0x716154637719918f⟩,
      ⟨0x9887ec3dbc358f5e, 0x58ac2274b0bf6ef0⟩, ⟨0x9610911884a7c419, 0x60e46b549edb9170⟩] ∧
  [16, 17, 127, 128, 129].map (fun n => cityHash128WithSeed (countingInput n) ⟨0, 0⟩) =
    [⟨0xed87a48f58e71de6, 0xcd7a7f2dfdabfff1⟩, ⟨0x77bf24457ff6884d, 0xdde09c2ec4cf5e82⟩,
      ⟨0xb948bb9779ba5159, 0x97d51981b9694127⟩, ⟨0x602df873047c0307, 0x79ea31fc32d18b52⟩,
      ⟨0xeb7f7dc7866c2332, 0x340a36af2adfe58b⟩] ∧
  (∀ f : List Byte → Quad,
    cityHashCrc128 f (countingInput 900) = ⟨0x9a49e974e386c795, 0x6d3461afce5e5124⟩ ∧
    cityHashCrc128 f (countingInput 901) =
      ⟨(f (countingInput 901).bytes).r2, (f (countingInput 901).bytes).r3⟩)

/-! ## Nothing stops the machine -/

/-- 60_exceptions.md R260, R271: nothing an agent does stops the machine. Every step answers a next state: no trap, and an access
that the spec gives no step only leaves its agent stuck (log 11, log 12). -/
def Obligations.EveryStepAnswersANextState : Prop := ∀ s : State, ∃ t, step s = .next t
end

