-- ==== Sys2Proof/Laws/Memory.lean ====
section
/-! SUPPORT. The laws of the source memory: read after write, the canonical form kept, and what `MemRead` returns. -/

namespace Sys2Proof.Machine

@[simp] theorem Memory.read_nil (a : Nat) : Memory.read [] a = unlistedByte a := rfl

theorem Memory.wfFrom_cons {lo k : Nat} {b : Byte} {m : List Host.Cell} :
    Memory.wfFrom lo ((k, b) :: m) = true ↔
      lo ≤ k ∧ k < 2 ^ 64 ∧ b ≠ unlistedByte k ∧ Memory.wfFrom (k + 1) m = true := by
  simp [Memory.wfFrom, and_assoc]

theorem Memory.wfFrom_mono {lo lo' : Nat} {m : List Host.Cell} (h : lo' ≤ lo) (hm : Memory.wfFrom lo m = true) :
    Memory.wfFrom lo' m = true := by
  cases m with
  | nil => rfl
  | cons c m => rw [Memory.wfFrom_cons] at *; exact ⟨h.trans hm.1, hm.2⟩

/-- Below the lowest listed address a memory in canonical form reads as unlisted. -/
theorem Memory.read_below {lo a : Nat} {m : List Host.Cell} (hm : Memory.wfFrom lo m = true) (h : a < lo) :
    Memory.read m a = unlistedByte a := by
  induction m generalizing lo with
  | nil => rfl
  | cons c m ih =>
    obtain ⟨k, b⟩ := c
    rw [Memory.wfFrom_cons] at hm
    simp only [Memory.read]
    rw [if_neg (by omega)]
    exact ih hm.2.2.2 (by omega)

theorem Memory.read_write_same_from {lo a : Nat} {b : Byte} {m : List Host.Cell} (hm : Memory.wfFrom lo m = true) :
    Memory.read (Memory.write m a b) a = b := by
  induction m generalizing lo with
  | nil => by_cases hb : b = unlistedByte a <;> simp [Memory.write, Memory.read, hb]
  | cons c m ih =>
    obtain ⟨k, d⟩ := c
    rw [Memory.wfFrom_cons] at hm
    simp only [Memory.write]
    split
    · simp only [Memory.read]; rw [if_neg (by omega)]; exact ih hm.2.2.2
    · split
      · split
        · next hb => rw [Memory.read_below hm.2.2.2 (by omega), hb]
        · simp [Memory.read]
      · split
        · next hb =>
          simp only [Memory.read]; rw [if_neg (by omega), Memory.read_below hm.2.2.2 (by omega), hb]
        · simp [Memory.read]

/-- A byte reads as it was last written. -/
theorem Memory.read_write_same {a : Nat} {b : Byte} {m : List Host.Cell} (hm : Memory.wf m = true) :
    Memory.read (Memory.write m a b) a = b := Memory.read_write_same_from hm

/-- A write leaves every other address as it was. -/
theorem Memory.read_write_other {a x : Nat} {b : Byte} {m : List Host.Cell} (h : x ≠ a) :
    Memory.read (Memory.write m a b) x = Memory.read m x := by
  induction m with
  | nil => by_cases hb : b = unlistedByte a <;> simp [Memory.write, Memory.read, hb, Ne.symm h]
  | cons c m ih =>
    obtain ⟨k, d⟩ := c
    simp only [Memory.write]
    split
    · simp only [Memory.read, ih]
    · split
      · next hk => split <;> simp [Memory.read, hk, Ne.symm h]
      · split <;> simp [Memory.read, Ne.symm h]

theorem Memory.wfFrom_write {lo a : Nat} {b : Byte} {m : List Host.Cell} (hm : Memory.wfFrom lo m = true)
    (ha : lo ≤ a) (ha' : a < 2 ^ 64) : Memory.wfFrom lo (Memory.write m a b) = true := by
  induction m generalizing lo with
  | nil =>
    by_cases hb : b = unlistedByte a
    · simp [Memory.write, hb, Memory.wfFrom]
    · simp only [Memory.write, if_neg hb, Memory.wfFrom_cons]; exact ⟨ha, ha', hb, rfl⟩
  | cons c m ih =>
    obtain ⟨k, d⟩ := c
    have hc := Memory.wfFrom_cons.1 hm
    simp only [Memory.write]
    split
    · next hk => exact Memory.wfFrom_cons.2 ⟨hc.1, hc.2.1, hc.2.2.1, ih hc.2.2.2 (by omega)⟩
    · split
      · next hk =>
        split
        · exact Memory.wfFrom_mono (by omega) hc.2.2.2
        · next hb => exact Memory.wfFrom_cons.2 ⟨ha, ha', hb, hk ▸ hc.2.2.2⟩
      · split
        · exact hm
        · next hb =>
          exact Memory.wfFrom_cons.2 ⟨ha, ha', hb, Memory.wfFrom_cons.2 ⟨by omega, hc.2.1, hc.2.2.1, hc.2.2.2⟩⟩

/-- Every write inside the address space keeps the canonical form. -/
theorem Memory.wf_write {a : Nat} {b : Byte} {m : List Host.Cell} (hm : Memory.wf m = true) (ha : a < 2 ^ 64) :
    Memory.wf (Memory.write m a b) = true := Memory.wfFrom_write hm (Nat.zero_le a) ha

@[simp] theorem Memory.readBytes_length (m : List Host.Cell) (a n : Nat) : (Memory.readBytes m a n).length = n := by
  induction n generalizing a with
  | zero => rfl
  | succ n ih => simp [Memory.readBytes, ih]

/-- Byte `i` of `MemRead(a, n)` is the byte at `a + i` (20_memory.md R50). -/
theorem Memory.readBytes_getElem? (m : List Host.Cell) (a n i : Nat) (h : i < n) :
    (Memory.readBytes m a n)[i]? = some (Memory.read m (a + i)) := by
  induction n generalizing a i with
  | zero => omega
  | succ n ih =>
    cases i with
    | zero => simp [Memory.readBytes]
    | succ i =>
      simp only [Memory.readBytes, List.getElem?_cons_succ]
      rw [ih (a + 1) i (by omega), Nat.add_right_comm, Nat.add_assoc]

/-- `MemRead` as the list the rule writes (20_memory.md R50, R52). -/
theorem Memory.readBytes_eq_map (m : List Host.Cell) (a n : Nat) :
    Memory.readBytes m a n = (List.range n).map fun i => Memory.read m (a + i) := by
  apply List.ext_getElem?
  intro i
  by_cases h : i < n
  · rw [Memory.readBytes_getElem? m a n i h]; simp [h]
  · rw [List.getElem?_eq_none (by simp; omega), List.getElem?_eq_none (by simp; omega)]

/-- `MemRead` of two memories that agree on the range is the same. -/
theorem Memory.readBytes_congr {m m' : List Host.Cell} {a n : Nat}
    (h : ∀ i, i < n → Memory.read m (a + i) = Memory.read m' (a + i)) :
    Memory.readBytes m a n = Memory.readBytes m' a n := by
  induction n generalizing a with
  | zero => rfl
  | succ n ih =>
    simp only [Memory.readBytes]
    congr 1
    · exact h 0 (by omega)
    · exact ih fun i hi => by simpa [Nat.add_assoc, Nat.add_comm 1] using h (i + 1) (by omega)

end Sys2Proof.Machine
end

