-- ==== Sys2Proof/Laws/State.lean ====
section
/-! SUPPORT. The small lemmas of the state: each named operation, field by field, so that no proof unfolds a record update. -/

namespace Sys2Proof.Machine

@[simp] theorem complete_params (c : Completion) (s : State) : (complete c s).params = s.params := rfl
@[simp] theorem complete_irqEn (c : Completion) (s : State) : (complete c s).irqEn = s.irqEn := rfl
@[simp] theorem complete_status (c : Completion) (s : State) : (complete c s).status = s.status.completed c.cause := rfl
@[simp] theorem complete_src (c : Completion) (s : State) : (complete c s).src = s.src := rfl
@[simp] theorem complete_len (c : Completion) (s : State) : (complete c s).len = s.len := rfl
@[simp] theorem complete_seed0 (c : Completion) (s : State) : (complete c s).seed0 = s.seed0 := rfl
@[simp] theorem complete_seed1 (c : Completion) (s : State) : (complete c s).seed1 = s.seed1 := rfl
@[simp] theorem complete_res (c : Completion) (s : State) : (complete c s).res = c.results := rfl
@[simp] theorem complete_faultAddr (c : Completion) (s : State) : (complete c s).faultAddr = c.faultAddr := rfl
@[simp] theorem complete_latched (c : Completion) (s : State) : (complete c s).latched = s.latched := rfl
@[simp] theorem complete_mem (c : Completion) (s : State) : (complete c s).mem = s.mem := rfl
@[simp] theorem complete_windowWritten (c : Completion) (s : State) : (complete c s).windowWritten = s.windowWritten := rfl
@[simp] theorem complete_draws (c : Completion) (s : State) : (complete c s).draws = s.draws := rfl
@[simp] theorem complete_hosts (c : Completion) (s : State) : (complete c s).hosts = s.hosts := rfl
@[simp] theorem complete_schedule (c : Completion) (s : State) : (complete c s).schedule = s.schedule := rfl

@[simp] theorem completeDrawn_params (c : Completion) (s : State) : (completeDrawn c s).params = s.params := rfl
@[simp] theorem completeDrawn_irqEn (c : Completion) (s : State) : (completeDrawn c s).irqEn = s.irqEn := rfl
@[simp] theorem completeDrawn_status (c : Completion) (s : State) : (completeDrawn c s).status = s.status.completed c.cause := rfl
@[simp] theorem completeDrawn_src (c : Completion) (s : State) : (completeDrawn c s).src = s.src := rfl
@[simp] theorem completeDrawn_len (c : Completion) (s : State) : (completeDrawn c s).len = s.len := rfl
@[simp] theorem completeDrawn_seed0 (c : Completion) (s : State) : (completeDrawn c s).seed0 = s.seed0 := rfl
@[simp] theorem completeDrawn_seed1 (c : Completion) (s : State) : (completeDrawn c s).seed1 = s.seed1 := rfl
@[simp] theorem completeDrawn_res (c : Completion) (s : State) : (completeDrawn c s).res = drawnResults s := rfl
@[simp] theorem completeDrawn_faultAddr (c : Completion) (s : State) : (completeDrawn c s).faultAddr = c.faultAddr := rfl
@[simp] theorem completeDrawn_latched (c : Completion) (s : State) : (completeDrawn c s).latched = s.latched := rfl
@[simp] theorem completeDrawn_mem (c : Completion) (s : State) : (completeDrawn c s).mem = s.mem := rfl
@[simp] theorem completeDrawn_windowWritten (c : Completion) (s : State) : (completeDrawn c s).windowWritten = s.windowWritten := rfl
@[simp] theorem completeDrawn_draws (c : Completion) (s : State) : (completeDrawn c s).draws = s.draws + 4 := rfl
@[simp] theorem completeDrawn_hosts (c : Completion) (s : State) : (completeDrawn c s).hosts = s.hosts := rfl
@[simp] theorem completeDrawn_schedule (c : Completion) (s : State) : (completeDrawn c s).schedule = s.schedule := rfl

@[simp] theorem accept_params (v : Word64) (s : State) : (accept v s).params = s.params := rfl
@[simp] theorem accept_irqEn (v : Word64) (s : State) : (accept v s).irqEn = s.irqEn := rfl
@[simp] theorem accept_status (v : Word64) (s : State) : (accept v s).status = s.status.accepted := rfl
@[simp] theorem accept_src (v : Word64) (s : State) : (accept v s).src = s.src := rfl
@[simp] theorem accept_len (v : Word64) (s : State) : (accept v s).len = s.len := rfl
@[simp] theorem accept_seed0 (v : Word64) (s : State) : (accept v s).seed0 = s.seed0 := rfl
@[simp] theorem accept_seed1 (v : Word64) (s : State) : (accept v s).seed1 = s.seed1 := rfl
@[simp] theorem accept_res (v : Word64) (s : State) : (accept v s).res = s.res := rfl
@[simp] theorem accept_faultAddr (v : Word64) (s : State) : (accept v s).faultAddr = s.faultAddr := rfl
@[simp] theorem accept_latched (v : Word64) (s : State) : (accept v s).latched = ⟨v, s.src, s.len, s.seed0, s.seed1⟩ := rfl
@[simp] theorem accept_mem (v : Word64) (s : State) : (accept v s).mem = s.mem := rfl
@[simp] theorem accept_windowWritten (v : Word64) (s : State) : (accept v s).windowWritten = false := rfl
@[simp] theorem accept_draws (v : Word64) (s : State) : (accept v s).draws = s.draws := rfl
@[simp] theorem accept_hosts (v : Word64) (s : State) : (accept v s).hosts = s.hosts := rfl
@[simp] theorem accept_schedule (v : Word64) (s : State) : (accept v s).schedule = s.schedule := rfl

@[simp] theorem storeByte_params (a : Nat) (b : Byte) (s : State) : (storeByte a b s).params = s.params := rfl
@[simp] theorem storeByte_irqEn (a : Nat) (b : Byte) (s : State) : (storeByte a b s).irqEn = s.irqEn := rfl
@[simp] theorem storeByte_status (a : Nat) (b : Byte) (s : State) : (storeByte a b s).status = s.status := rfl
@[simp] theorem storeByte_src (a : Nat) (b : Byte) (s : State) : (storeByte a b s).src = s.src := rfl
@[simp] theorem storeByte_len (a : Nat) (b : Byte) (s : State) : (storeByte a b s).len = s.len := rfl
@[simp] theorem storeByte_seed0 (a : Nat) (b : Byte) (s : State) : (storeByte a b s).seed0 = s.seed0 := rfl
@[simp] theorem storeByte_seed1 (a : Nat) (b : Byte) (s : State) : (storeByte a b s).seed1 = s.seed1 := rfl
@[simp] theorem storeByte_res (a : Nat) (b : Byte) (s : State) : (storeByte a b s).res = s.res := rfl
@[simp] theorem storeByte_faultAddr (a : Nat) (b : Byte) (s : State) : (storeByte a b s).faultAddr = s.faultAddr := rfl
@[simp] theorem storeByte_latched (a : Nat) (b : Byte) (s : State) : (storeByte a b s).latched = s.latched := rfl
@[simp] theorem storeByte_mem (a : Nat) (b : Byte) (s : State) : (storeByte a b s).mem = Memory.write s.mem a b := rfl
@[simp] theorem storeByte_windowWritten (a : Nat) (b : Byte) (s : State) : (storeByte a b s).windowWritten = (s.windowWritten || (s.status.busy && inWindow s.latched a)) := rfl
@[simp] theorem storeByte_draws (a : Nat) (b : Byte) (s : State) : (storeByte a b s).draws = s.draws := rfl
@[simp] theorem storeByte_hosts (a : Nat) (b : Byte) (s : State) : (storeByte a b s).hosts = s.hosts := rfl
@[simp] theorem storeByte_schedule (a : Nat) (b : Byte) (s : State) : (storeByte a b s).schedule = s.schedule := rfl

@[simp] theorem resetBlock_params (s : State) : (resetBlock s).params = s.params := rfl
@[simp] theorem resetBlock_irqEn (s : State) : (resetBlock s).irqEn = false := rfl
@[simp] theorem resetBlock_status (s : State) : (resetBlock s).status = Status.reset := rfl
@[simp] theorem resetBlock_src (s : State) : (resetBlock s).src = 0 := rfl
@[simp] theorem resetBlock_len (s : State) : (resetBlock s).len = 0 := rfl
@[simp] theorem resetBlock_seed0 (s : State) : (resetBlock s).seed0 = 0 := rfl
@[simp] theorem resetBlock_seed1 (s : State) : (resetBlock s).seed1 = 0 := rfl
@[simp] theorem resetBlock_res (s : State) : (resetBlock s).res = Quad.zero := rfl
@[simp] theorem resetBlock_faultAddr (s : State) : (resetBlock s).faultAddr = 0 := rfl
@[simp] theorem resetBlock_latched (s : State) : (resetBlock s).latched = Latched.reset := rfl
@[simp] theorem resetBlock_mem (s : State) : (resetBlock s).mem = s.mem := rfl
@[simp] theorem resetBlock_windowWritten (s : State) : (resetBlock s).windowWritten = false := rfl
@[simp] theorem resetBlock_draws (s : State) : (resetBlock s).draws = s.draws := rfl
@[simp] theorem resetBlock_hosts (s : State) : (resetBlock s).hosts = s.hosts := rfl
@[simp] theorem resetBlock_schedule (s : State) : (resetBlock s).schedule = s.schedule := rfl

@[simp] theorem setHost_params (k : Nat) (h : HostAgent) (s : State) : (s.setHost k h).params = s.params := rfl
@[simp] theorem setHost_irqEn (k : Nat) (h : HostAgent) (s : State) : (s.setHost k h).irqEn = s.irqEn := rfl
@[simp] theorem setHost_status (k : Nat) (h : HostAgent) (s : State) : (s.setHost k h).status = s.status := rfl
@[simp] theorem setHost_src (k : Nat) (h : HostAgent) (s : State) : (s.setHost k h).src = s.src := rfl
@[simp] theorem setHost_len (k : Nat) (h : HostAgent) (s : State) : (s.setHost k h).len = s.len := rfl
@[simp] theorem setHost_seed0 (k : Nat) (h : HostAgent) (s : State) : (s.setHost k h).seed0 = s.seed0 := rfl
@[simp] theorem setHost_seed1 (k : Nat) (h : HostAgent) (s : State) : (s.setHost k h).seed1 = s.seed1 := rfl
@[simp] theorem setHost_res (k : Nat) (h : HostAgent) (s : State) : (s.setHost k h).res = s.res := rfl
@[simp] theorem setHost_faultAddr (k : Nat) (h : HostAgent) (s : State) : (s.setHost k h).faultAddr = s.faultAddr := rfl
@[simp] theorem setHost_latched (k : Nat) (h : HostAgent) (s : State) : (s.setHost k h).latched = s.latched := rfl
@[simp] theorem setHost_mem (k : Nat) (h : HostAgent) (s : State) : (s.setHost k h).mem = s.mem := rfl
@[simp] theorem setHost_windowWritten (k : Nat) (h : HostAgent) (s : State) : (s.setHost k h).windowWritten = s.windowWritten := rfl
@[simp] theorem setHost_draws (k : Nat) (h : HostAgent) (s : State) : (s.setHost k h).draws = s.draws := rfl
@[simp] theorem setHost_hosts (k : Nat) (h : HostAgent) (s : State) : (s.setHost k h).hosts = s.hosts.set k h := rfl
@[simp] theorem setHost_schedule (k : Nat) (h : HostAgent) (s : State) : (s.setHost k h).schedule = s.schedule := rfl

@[simp] theorem takeTurn_params (s : State) : (s.takeTurn).params = s.params := rfl
@[simp] theorem takeTurn_irqEn (s : State) : (s.takeTurn).irqEn = s.irqEn := rfl
@[simp] theorem takeTurn_status (s : State) : (s.takeTurn).status = s.status := rfl
@[simp] theorem takeTurn_src (s : State) : (s.takeTurn).src = s.src := rfl
@[simp] theorem takeTurn_len (s : State) : (s.takeTurn).len = s.len := rfl
@[simp] theorem takeTurn_seed0 (s : State) : (s.takeTurn).seed0 = s.seed0 := rfl
@[simp] theorem takeTurn_seed1 (s : State) : (s.takeTurn).seed1 = s.seed1 := rfl
@[simp] theorem takeTurn_res (s : State) : (s.takeTurn).res = s.res := rfl
@[simp] theorem takeTurn_faultAddr (s : State) : (s.takeTurn).faultAddr = s.faultAddr := rfl
@[simp] theorem takeTurn_latched (s : State) : (s.takeTurn).latched = s.latched := rfl
@[simp] theorem takeTurn_mem (s : State) : (s.takeTurn).mem = s.mem := rfl
@[simp] theorem takeTurn_windowWritten (s : State) : (s.takeTurn).windowWritten = s.windowWritten := rfl
@[simp] theorem takeTurn_draws (s : State) : (s.takeTurn).draws = s.draws := rfl
@[simp] theorem takeTurn_hosts (s : State) : (s.takeTurn).hosts = s.hosts := rfl
@[simp] theorem takeTurn_schedule (s : State) : (s.takeTurn).schedule = s.schedule.tail := rfl

@[simp] theorem Status.accepted_busy (st : Status) : st.accepted.busy = true := rfl
@[simp] theorem Status.accepted_done (st : Status) : st.accepted.done = false := rfl
@[simp] theorem Status.accepted_ovr (st : Status) : st.accepted.ovr = st.ovr := rfl
@[simp] theorem Status.accepted_cause (st : Status) : st.accepted.cause = .ok := rfl
@[simp] theorem Status.dropped_busy (st : Status) : st.dropped.busy = st.busy := rfl
@[simp] theorem Status.dropped_done (st : Status) : st.dropped.done = st.done := rfl
@[simp] theorem Status.dropped_ovr (st : Status) : st.dropped.ovr = true := rfl
@[simp] theorem Status.dropped_cause (st : Status) : st.dropped.cause = st.cause := rfl
@[simp] theorem Status.reset_busy : Status.reset.busy = false := rfl
@[simp] theorem Status.reset_done : Status.reset.done = false := rfl
@[simp] theorem Status.reset_ovr : Status.reset.ovr = false := rfl
@[simp] theorem Status.reset_cause : Status.reset.cause = .ok := rfl
@[simp] theorem Status.completed_busy (c : Cause) (st : Status) : (st.completed c).busy = false := rfl
@[simp] theorem Status.completed_done (c : Cause) (st : Status) : (st.completed c).done = true := rfl
@[simp] theorem Status.completed_ovr (c : Cause) (st : Status) : (st.completed c).ovr = st.ovr := rfl
@[simp] theorem Status.completed_cause (c : Cause) (st : Status) : (st.completed c).cause = c := rfl
@[simp] theorem Status.hostWrite_busy (v : Word64) (st : Status) : (st.hostWrite v).busy = st.busy := rfl
@[simp] theorem Status.hostWrite_done (v : Word64) (st : Status) : (st.hostWrite v).done = (st.done && !v.getLsbD 1) := rfl
@[simp] theorem Status.hostWrite_ovr (v : Word64) (st : Status) : (st.hostWrite v).ovr = (st.ovr && !v.getLsbD 2) := rfl
@[simp] theorem Status.hostWrite_cause (v : Word64) (st : Status) : (st.hostWrite v).cause = st.cause := rfl

@[simp] theorem View.ofBytes_bytes (bs : List Byte) : (View.ofBytes bs).bytes = bs := rfl

end Sys2Proof.Machine
end

