-- ==== Sys2Proof/Laws/Window.lean ====
section
/-! SUPPORT. What the window check and the commands that read the window can answer (60_exceptions.md R264, R269). -/

namespace Sys2Proof.Machine

theorem firstUnreadable_eq_none {p : Params} {a n : Nat} :
    firstUnreadable p a n = none ↔ ∀ i, i < n → isReadable p (a + i) = true := by
  induction n generalizing a with
  | zero => simp [firstUnreadable]
  | succ n ih =>
    simp only [firstUnreadable]
    split
    · next hr =>
      rw [ih]
      constructor
      · intro h i hi
        cases i with
        | zero => exact hr
        | succ i => simpa [Nat.add_assoc, Nat.add_comm 1] using h i (by omega)
      · intro h i hi
        simpa [Nat.add_assoc, Nat.add_comm 1] using h (i + 1) (by omega)
    · next hr =>
      simp only [reduceCtorEq, false_iff]
      intro h
      exact hr (h 0 (by omega))

/-- The address `firstUnreadable` answers is the lowest unreadable one of the range. -/
theorem firstUnreadable_eq_some {p : Params} {a n x : Nat} :
    firstUnreadable p a n = some x ↔
      a ≤ x ∧ x < a + n ∧ isReadable p x = false ∧ ∀ y, a ≤ y → y < x → isReadable p y = true := by
  induction n generalizing a with
  | zero => simp only [firstUnreadable, reduceCtorEq, false_iff]; omega
  | succ n ih =>
    simp only [firstUnreadable]
    split
    · next hr =>
      rw [ih]
      constructor
      · rintro ⟨h1, h2, h3, h4⟩
        refine ⟨by omega, by omega, h3, fun y hy hy' => ?_⟩
        rcases Nat.eq_or_lt_of_le hy with rfl | hlt
        · exact hr
        · exact h4 y hlt hy'
      · rintro ⟨h1, h2, h3, h4⟩
        have hne : a ≠ x := by rintro rfl; simp [hr] at h3
        exact ⟨by omega, by omega, h3, fun y hy hy' => h4 y (by omega) hy'⟩
    · next hr =>
      simp only [Option.some.injEq]
      constructor
      · rintro rfl
        exact ⟨le_refl _, by omega, by simpa using hr, fun y hy hy' => by omega⟩
      · rintro ⟨h1, h2, h3, h4⟩
        by_contra hne
        exact hr (h4 a (le_refl _) (by omega))

theorem anySideEffecting_eq_false {p : Params} {a n : Nat} :
    anySideEffecting p a n = false ↔ ∀ i, i < n → isSideEffecting p (a + i) = false := by
  induction n generalizing a with
  | zero => simp [anySideEffecting]
  | succ n ih =>
    simp only [anySideEffecting, Bool.or_eq_false_iff, ih]
    constructor
    · rintro ⟨h0, h⟩ i hi
      cases i with
      | zero => exact h0
      | succ i => simpa [Nat.add_assoc, Nat.add_comm 1] using h i (by omega)
    · intro h
      exact ⟨h 0 (by omega), fun i hi => by simpa [Nat.add_assoc, Nat.add_comm 1] using h (i + 1) (by omega)⟩

/-- Everything `check_window()` can answer. -/
theorem checkWindow_cases (p : Params) (l : Latched) :
    (l.src = 0 ∧ checkWindow p l = some .absent) ∨
    (l.src ≠ 0 ∧ 0 < l.len.toNat ∧ 2 ^ 64 < l.src.toNat + l.len.toNat ∧ checkWindow p l = some .range) ∨
    (l.src ≠ 0 ∧ l.src.toNat + l.len.toNat ≤ 2 ^ 64 ∧ ∃ x, firstUnreadable p l.src.toNat l.len.toNat = some x ∧
      checkWindow p l = some (.busFault (BitVec.ofNat 64 x))) ∨
    (l.src ≠ 0 ∧ l.src.toNat + l.len.toNat ≤ 2 ^ 64 ∧ firstUnreadable p l.src.toNat l.len.toNat = none ∧
      checkWindow p l = none) := by
  by_cases h0 : l.src = 0
  · exact .inl ⟨h0, by simp [checkWindow, h0]⟩
  · by_cases hr : 0 < l.len.toNat ∧ 2 ^ 64 < l.src.toNat + l.len.toNat
    · exact .inr (.inl ⟨h0, hr.1, hr.2, by simp only [checkWindow, if_neg h0, if_pos hr]⟩)
    · have hle : l.src.toNat + l.len.toNat ≤ 2 ^ 64 := by
        have := l.src.isLt
        by_cases hl : 0 < l.len.toNat
        · by_contra hc; exact hr ⟨hl, by omega⟩
        · omega
      cases hf : firstUnreadable p l.src.toNat l.len.toNat with
      | some x => exact .inr (.inr (.inl ⟨h0, hle, x, rfl, by simp only [checkWindow, if_neg h0, if_neg hr, hf]⟩))
      | none => exact .inr (.inr (.inr ⟨h0, hle, rfl, by simp only [checkWindow, if_neg h0, if_neg hr, hf]⟩))

/-- A bus-fault address is a real, non-null, unreadable address. -/
theorem checkWindow_busFault {p : Params} {l : Latched} {a : Word64} (h : checkWindow p l = some (.busFault a)) :
    a ≠ 0 ∧ isReadable p a.toNat = false := by
  rcases checkWindow_cases p l with ⟨_, hc⟩ | ⟨_, _, _, hc⟩ | ⟨h0, hle, x, hx, hc⟩ | ⟨_, _, _, hc⟩ <;>
    rw [hc] at h <;> simp only [Option.some.injEq, reduceCtorEq] at h
  obtain ⟨h1, h2, h3, _⟩ := firstUnreadable_eq_some.1 hx
  have hx64 : x < 2 ^ 64 := by omega
  injection h with ha
  subst ha
  have ht : (BitVec.ofNat 64 x).toNat = x := by rw [BitVec.toNat_ofNat, Nat.mod_eq_of_lt hx64]
  have hpos : 0 < l.src.toNat := by
    rcases Nat.eq_zero_or_pos l.src.toNat with hz | hp
    · exact absurd (BitVec.eq_of_toNat_eq (by simpa using hz)) h0
    · exact hp
  refine ⟨fun hz => ?_, by rw [ht]; exact h3⟩
  rw [hz] at ht
  simp at ht
  omega

/-- A command that reads the window answers a completion, with its results or with a draw. -/
theorem runOnWindow_next (f : View → Quad) (s : State) :
    runOnWindow f s = .next (complete (windowCompletion f s) s) ∨
      runOnWindow f s = .next (completeDrawn (windowCompletion f s) s) := by
  simp only [runOnWindow]
  split
  · exact .inr rfl
  · exact .inl rfl

/-- On a window written while the command ran, the completion draws its results. -/
theorem runOnWindow_written (f : View → Quad) {s : State} (h : s.windowWritten = true) :
    runOnWindow f s = .next (completeDrawn (windowCompletion f s) s) := by
  simp [runOnWindow, resultsAreDrawn, h]

/-- The completion of a command that reads the window never names a bad bus-fault address. -/
theorem windowCompletion_busFault {f : View → Quad} {s : State} {a : Word64}
    (h : windowCompletion f s = .busFault a) : a ≠ 0 ∧ isReadable s.params a.toNat = false := by
  unfold windowCompletion at h
  split at h
  · next c hc => exact checkWindow_busFault (h ▸ hc)
  · simp at h

theorem checkWindow_of_windowOk {s : State} (h : WindowOk s) : checkWindow s.params s.latched = none := by
  have hf := firstUnreadable_eq_none.2 h.allReadable
  have hin := h.inSpace
  simp only [checkWindow, if_neg h.notNull, hf]
  rw [if_neg (by omega)]

/-- The view a command builds is the rule's list of window bytes (20_memory.md R52). -/
theorem ofBytes_windowBytes (s : State) : View.ofBytes (windowBytes s) = inputView s := by
  simp only [windowBytes, inputView, Memory.readBytes_eq_map]

@[simp] theorem inputView_len (s : State) : (inputView s).len = s.latched.len.toNat := by
  simp [inputView, View.len]

/-- On a window that can be hashed the command completes OK with its result. -/
theorem runOnWindow_of_windowOk (f : View → Quad) {s : State} (h : WindowOk s) :
    runOnWindow f s = .next (complete (.ok (f (View.ofBytes (windowBytes s)))) s) := by
  have hc : windowCompletion f s = .ok (f (View.ofBytes (windowBytes s))) := by
    simp only [windowCompletion, checkWindow_of_windowOk h]
  have hd : resultsAreDrawn (.ok (f (View.ofBytes (windowBytes s)))) s = false := by
    simp [resultsAreDrawn, h.unwritten, anySideEffecting_eq_false.2 h.noSideEffects]
  simp only [runOnWindow, hc, hd, Bool.false_eq_true, if_false]

end Sys2Proof.Machine
end

