-- ==== Sys2Proof/Laws/Commands.lean ====
section
/-! SUPPORT. What all commands have in common: a command that reads memory is a function on its window, every command reads
the state only through the latch, the parameters, the window's bytes and the two free-value fields, and it writes only the
completion record. -/

namespace Sys2Proof.Machine

/-- A command that reads memory, on a block that has it, is `runOnWindow` of a function of its view and its latched seeds. -/
theorem exec_of_readsWindow {i : Instr} {s : State} (hr : i.readsWindow = true)
    (hw : i.wellFormed s.params.hasCrc = true) :
    ∃ f : View → Quad, ∀ u : State, u.params.hasCrc = s.params.hasCrc → u.latched.seed0 = s.latched.seed0 →
      u.latched.seed1 = s.latched.seed1 → exec i u = runOnWindow f u := by
  cases i <;> simp [Instr.readsWindow, Instr.wellFormed, Instr.usesCrc] at hr hw
  · exact ⟨_, fun _ _ _ _ => rfl⟩
  · exact ⟨_, fun _ _ _ _ => rfl⟩
  · exact ⟨fun v => resultOfWord64 (cityHash64WithSeed v s.latched.seed0),
      fun _ _ h _ => by simp only [exec, execHash64Seed, h]⟩
  · exact ⟨fun v => resultOfWord64 (cityHash64WithSeeds v s.latched.seed0 s.latched.seed1),
      fun _ _ h h' => by simp only [exec, execHash64Seeds, h, h']⟩
  · exact ⟨_, fun _ _ _ _ => rfl⟩
  · exact ⟨fun v => resultOfPair (cityHash128WithSeed v s.latched.seedPair),
      fun _ _ h h' => by simp only [exec, execHash128Seed, Latched.seedPair, h, h']⟩
  · exact ⟨fun v => resultOfPair (cityHashCrc128 Config.crc256 v),
      fun _ hc _ _ => by simp only [exec, execHashcrc128, runOnWindowIfCrc, hc, hw, if_true]⟩
  · exact ⟨fun v => resultOfPair (cityHashCrc128WithSeed Config.crc256 v s.latched.seedPair),
      fun _ hc h h' => by
        simp only [exec, execHashcrc128Seed, runOnWindowIfCrc, hc, hw, if_true, Latched.seedPair, h, h']⟩
  · exact ⟨fun v => Config.crc256 v.bytes,
      fun _ hc _ _ => by simp only [exec, execHashcrc256, runOnWindowIfCrc, hc, hw, if_true]⟩

/-- Two states alike in the latch, the parameters, the window's bytes and `windowWritten` complete alike. -/
theorem exec_same_completion (i : Instr) {s u : State} (hl : s.latched = u.latched) (hp : s.params = u.params)
    (hw : s.windowWritten = u.windowWritten) (hb : windowBytes s = windowBytes u) :
    ∃ c, (exec i s = .next (complete c s) ∧ exec i u = .next (complete c u)) ∨
      (exec i s = .next (completeDrawn c s) ∧ exec i u = .next (completeDrawn c u)) := by
  have key : ∀ f, ∃ c, (runOnWindow f s = .next (complete c s) ∧ runOnWindow f u = .next (complete c u)) ∨
      (runOnWindow f s = .next (completeDrawn c s) ∧ runOnWindow f u = .next (completeDrawn c u)) := by
    intro f
    refine ⟨windowCompletion f s, ?_⟩
    have e1 : windowCompletion f u = windowCompletion f s := by simp [windowCompletion, hl, hp, hb]
    have e2 : ∀ c, resultsAreDrawn c u = resultsAreDrawn c s := by simp [resultsAreDrawn, hl, hp, hw]
    simp only [runOnWindow, e1, e2]
    split
    · exact .inr ⟨rfl, rfl⟩
    · exact .inl ⟨rfl, rfl⟩
  have keyC : ∀ f, ∃ c,
      (runOnWindowIfCrc f s = .next (complete c s) ∧ runOnWindowIfCrc f u = .next (complete c u)) ∨
      (runOnWindowIfCrc f s = .next (completeDrawn c s) ∧ runOnWindowIfCrc f u = .next (completeDrawn c u)) := by
    intro f
    simp only [runOnWindowIfCrc, ← hp]
    split
    · exact key f
    · exact ⟨_, .inl ⟨rfl, rfl⟩⟩
  cases i <;> simp only [exec, execHash32, execHash64, execHash64Seed, execHash64Seeds, execHash128, execHash128Seed,
    execFold128, execHashcrc128, execHashcrc128Seed, execHashcrc256, ← hl]
  case fold128 => exact ⟨_, .inl ⟨rfl, rfl⟩⟩
  all_goals first
    | exact key _
    | exact keyC _

/-- A command commutes with any change to the state that it neither reads nor undoes. -/
theorem exec_commutes (i : Instr) (g : State → State) {s : State} (hp : (g s).params = s.params)
    (hl : (g s).latched = s.latched) (hm : (g s).mem = s.mem) (hw : (g s).windowWritten = s.windowWritten)
    (hc : ∀ c, complete c (g s) = g (complete c s)) (hd : ∀ c, completeDrawn c (g s) = g (completeDrawn c s)) :
    ∃ t, exec i s = .next t ∧ exec i (g s) = .next (g t) := by
  obtain ⟨c, h | h⟩ := exec_same_completion i hl.symm hp.symm hw.symm (by simp only [windowBytes, hl, hm])
  · exact ⟨_, h.1, by rw [h.2, hc]⟩
  · exact ⟨_, h.1, by rw [h.2, hd]⟩

/-- Windows of one length with the same bytes, wherever they lie. -/
theorem windowBytes_congr {s u : State} (hl : s.latched.len = u.latched.len)
    (hm : ∀ j, j < s.latched.len.toNat →
      Memory.read s.mem (s.latched.src.toNat + j) = Memory.read u.mem (u.latched.src.toNat + j)) :
    windowBytes s = windowBytes u := by
  simp only [windowBytes, Memory.readBytes_eq_map, ← hl]
  exact List.map_congr_left fun j hj => hm j (by simpa using hj)

theorem inWindow_iff {l : Latched} {a : Nat} :
    inWindow l a = true ↔ l.src.toNat ≤ a ∧ a < l.src.toNat + l.len.toNat := by simp [inWindow]

/-- The completion record in the words of the claims. -/
theorem complete_eq_recordOf (c : Completion) (s : State) :
    complete c s = recordOf c.cause c.results c.faultAddr s := rfl

end Sys2Proof.Machine
end

