-- ==== Sys2Proof/Laws/View.lean ====
section
/-! SUPPORT. A fetch inside a view depends on the view's bytes alone (20_memory.md R53 to R56). -/

namespace Sys2Proof.Machine

@[simp] theorem View.drop_bytes (s : View) (k : Nat) : (s.drop k).bytes = s.bytes.drop k := rfl
@[simp] theorem View.drop_len (s : View) (k : Nat) : (s.drop k).len = s.len - k := by simp [View.len]

/-- Offset `p` of `s[k:]` is offset `p + k` of `s` (43_hash128.md R193). -/
theorem View.drop_byte (s : View) (k p : Nat) : (s.drop k).byte p = s.byte (p + k) := by
  simp [View.byte, View.drop, List.getElem?_drop, Nat.add_comm]

theorem View.len_congr {s t : View} (h : s.bytes = t.bytes) : s.len = t.len := by simp [View.len, h]
theorem View.len64_congr {s t : View} (h : s.bytes = t.bytes) : s.len64 = t.len64 := by
  simp [View.len64, View.len_congr h]
theorem View.n32_congr {s t : View} (h : s.bytes = t.bytes) : s.n32 = t.n32 := by
  simp [View.n32, View.len64_congr h]

theorem View.byte_congr {s t : View} {p : Nat} (h : s.bytes = t.bytes) (hp : p < s.len) : s.byte p = t.byte p := by
  have hs : s.bytes[p]? = some s.bytes[p] := List.getElem?_eq_getElem hp
  simp only [View.byte, ← h, hs]

theorem View.fetch32_congr {s t : View} {p : Nat} (h : s.bytes = t.bytes) (hp : p + 4 ≤ s.len) :
    s.fetch32 p = t.fetch32 p := by
  simp only [View.fetch32]
  rw [View.byte_congr h (by omega : p < s.len), View.byte_congr h (by omega : p + 1 < s.len),
    View.byte_congr h (by omega : p + 2 < s.len), View.byte_congr h (by omega : p + 3 < s.len)]

theorem View.fetch64_congr {s t : View} {p : Nat} (h : s.bytes = t.bytes) (hp : p + 8 ≤ s.len) :
    s.fetch64 p = t.fetch64 p := by
  simp only [View.fetch64]
  rw [View.byte_congr h (by omega : p < s.len), View.byte_congr h (by omega : p + 1 < s.len),
    View.byte_congr h (by omega : p + 2 < s.len), View.byte_congr h (by omega : p + 3 < s.len),
    View.byte_congr h (by omega : p + 4 < s.len), View.byte_congr h (by omega : p + 5 < s.len),
    View.byte_congr h (by omega : p + 6 < s.len), View.byte_congr h (by omega : p + 7 < s.len)]

theorem weakS_congr {s t : View} {p : Nat} {a b : Word64} (h : s.bytes = t.bytes) (hp : p + 32 ≤ s.len) :
    weakS s p a b = weakS t p a b := by
  simp only [weakS]
  rw [View.fetch64_congr h (by omega : p + 8 ≤ s.len), View.fetch64_congr h (by omega : p + 8 + 8 ≤ s.len),
    View.fetch64_congr h (by omega : p + 16 + 8 ≤ s.len), View.fetch64_congr h (by omega : p + 24 + 8 ≤ s.len)]

end Sys2Proof.Machine
end

