-- ==== Sys2Proof/Laws/Datapath.lean ====
section
/-! SUPPORT. The loops of the hashes: their two equations each, and the pieces that two hashes share on views with the same
bytes. -/

namespace Sys2Proof.Machine

@[simp] theorem hash32Loop_zero (s : View) (acc : Acc32) : hash32Loop s 0 acc = acc := rfl
@[simp] theorem step64Loop_zero (s : View) (acc : Acc64) : step64Loop s 0 acc = acc := rfl
@[simp] theorem murmurLoop_zero (s : View) (acc : MurmurAcc) : murmurLoop s 0 acc = acc := rfl
@[simp] theorem hash128TailLoop_zero (s : View) (acc : Acc64) : hash128TailLoop s 0 acc = acc := rfl
@[simp] theorem crcPasses_zero (t : View) (s : CrcAcc) : crcPasses t 0 s = s := rfl
@[simp] theorem crcRemainder_zero (t : View) (s : CrcAcc) : crcRemainder t 0 s = s := rfl

theorem hash32Loop_succ (s : View) (n : Nat) (acc : Acc32) :
    hash32Loop s (n + 1) acc = hash32Chunk s (20 * n) (hash32Loop s n acc) := rfl
theorem step64Loop_succ (s : View) (n : Nat) (acc : Acc64) :
    step64Loop s (n + 1) acc = step64 s (64 * n) (step64Loop s n acc) := rfl
theorem murmurLoop_succ (s : View) (n : Nat) (acc : MurmurAcc) :
    murmurLoop s (n + 1) acc = murmurStep s (16 * n) (murmurLoop s n acc) := rfl
theorem hash128TailLoop_succ (s : View) (n : Nat) (acc : Acc64) :
    hash128TailLoop s (n + 1) acc = hash128TailStep s (s.len - 32 * (n + 1)) (hash128TailLoop s n acc) := rfl
theorem crcPasses_succ (t : View) (n : Nat) (s : CrcAcc) : crcPasses t (n + 1) s = crcPass t (crcPasses t n s) := rfl
theorem crcRemainder_succ (t : View) (n : Nat) (s : CrcAcc) :
    crcRemainder t (n + 1) s = crcPermuteCHG (crcRemainderMix 20 30 40 34 (crcChunk t 29 (crcRemainder t n s))) := rfl

/-- The byte offset of the candidate mixer after a chunk: 40 bytes on (45_crc.md R234). -/
@[simp] theorem crcChunk_p (t : View) (r : Nat) (s : CrcAcc) : (crcChunk t r s).p = s.p + 40 := rfl

theorem crcPass_p (t : View) (s : CrcAcc) : (crcPass t s).p = s.p + 240 := rfl

theorem crcPasses_p (t : View) (n : Nat) (s : CrcAcc) : (crcPasses t n s).p = s.p + 240 * n := by
  induction n with
  | zero => rfl
  | succ n ih => rw [crcPasses_succ, crcPass_p, ih]; omega

theorem crcRemainder_p (t : View) (n : Nat) (s : CrcAcc) : (crcRemainder t n s).p = s.p + 40 * n := by
  induction n with
  | zero => rfl
  | succ n ih =>
    rw [crcRemainder_succ]
    show (crcRemainder t n s).p + 40 = _
    rw [ih]; omega

theorem hashLen0to16_congr {s t : View} (h : s.bytes = t.bytes) : hashLen0to16 s = hashLen0to16 t := by
  have hsr : s.len >>> 1 = s.len / 2 := Nat.shiftRight_one _
  unfold hashLen0to16
  rw [← View.len_congr h, ← View.len64_congr h, ← View.n32_congr h]
  split
  · simp only [View.fetch64_congr h (by omega : 0 + 8 ≤ s.len),
      View.fetch64_congr h (by omega : s.len - 8 + 8 ≤ s.len)]
  split
  · simp only [View.fetch32_congr h (by omega : 0 + 4 ≤ s.len),
      View.fetch32_congr h (by omega : s.len - 4 + 4 ≤ s.len)]
  split
  · simp only [hsr, View.byte_congr h (by omega : 0 < s.len), View.byte_congr h (by omega : s.len / 2 < s.len),
      View.byte_congr h (by omega : s.len - 1 < s.len)]
  rfl

theorem step64_congr {s t : View} {p : Nat} {acc : Acc64} (h : s.bytes = t.bytes) (hp : p + 64 ≤ s.len) :
    step64 s p acc = step64 t p acc := by
  simp only [step64, View.fetch64_congr h (by omega : p + 8 + 8 ≤ s.len),
    View.fetch64_congr h (by omega : p + 48 + 8 ≤ s.len), View.fetch64_congr h (by omega : p + 40 + 8 ≤ s.len),
    View.fetch64_congr h (by omega : p + 16 + 8 ≤ s.len), weakS_congr h (by omega : p + 32 ≤ s.len),
    weakS_congr h (by omega : p + 32 + 32 ≤ s.len)]

theorem step64Loop_congr {s t : View} {n : Nat} {acc : Acc64} (h : s.bytes = t.bytes) (hp : 64 * n ≤ s.len) :
    step64Loop s n acc = step64Loop t n acc := by
  induction n with
  | zero => rfl
  | succ n ih => rw [step64Loop_succ, step64Loop_succ, ih (by omega), step64_congr h (by omega)]

theorem crcChunk_congr {s t : View} {r : Nat} {a : CrcAcc} (h : s.bytes = t.bytes) (hp : a.p + 40 ≤ s.len) :
    crcChunk s r a = crcChunk t r a := by
  simp only [crcChunk, View.fetch64_congr h (by omega : a.p + 8 ≤ s.len),
    View.fetch64_congr h (by omega : a.p + 8 + 8 ≤ s.len), View.fetch64_congr h (by omega : a.p + 16 + 8 ≤ s.len),
    View.fetch64_congr h (by omega : a.p + 24 + 8 ≤ s.len), View.fetch64_congr h (by omega : a.p + 32 + 8 ≤ s.len)]

/-- A pass, chunk by chunk: each stage agrees and moves the offset on by 40. -/
theorem crcPass_congr {s t : View} {a : CrcAcc} (h : s.bytes = t.bytes) (hp : a.p + 240 ≤ s.len) :
    crcPass s a = crcPass t a := by
  have stage : ∀ f : CrcAcc → CrcAcc, (∀ x, (f x).p = x.p) → ∀ (r n : Nat) (x y : CrcAcc), x = y → y.p = a.p + n →
      n + 40 ≤ 240 → f (crcChunk s r x) = f (crcChunk t r y) ∧ (f (crcChunk t r y)).p = a.p + (n + 40) := by
    intro f hf r n x y hxy hy hn
    subst hxy
    exact ⟨by rw [crcChunk_congr h (by omega)], by rw [hf, crcChunk_p]; omega⟩
  obtain ⟨e1, q1⟩ := stage crcPermuteAHC (fun _ => rfl) 0 0 a a rfl rfl (by omega)
  obtain ⟨e2, q2⟩ := stage crcPermuteAHF (fun _ => rfl) 33 _ _ _ e1 q1 (by omega)
  obtain ⟨e3, q3⟩ := stage crcPermuteBHF (fun _ => rfl) 0 _ _ _ e2 q2 (by omega)
  obtain ⟨e4, q4⟩ := stage crcPermuteBHD (fun _ => rfl) 42 _ _ _ e3 q3 (by omega)
  obtain ⟨e5, q5⟩ := stage crcPermuteBHE (fun _ => rfl) 0 _ _ _ e4 q4 (by omega)
  exact (stage crcPermuteAHE (fun _ => rfl) 33 _ _ _ e5 q5 (by omega)).1

end Sys2Proof.Machine
end

