-- ==== Sys2Proof/Laws/PerInstr.lean ====
section
/-! SUPPORT. Families of statements about the commands as syntax, one lemma per constructor. `FormatC`: a command word has a
zero reserved field and its row's OP in bits 7:0 (30_encoding.md R81, R83). -/

namespace Sys2Proof.Laws.FormatC

/-- The command word of `i` is of format C and its OP is one of the map's. -/
def Statement (i : Instr) : Prop :=
  rsvdField (encode i) = 0 ∧ opField (encode i) = i.op ∧ instrOfOp i.op = some i

theorem hash32 : Statement .hash32 := by unfold Statement; decide
theorem hash64 : Statement .hash64 := by unfold Statement; decide
theorem hash64Seed : Statement .hash64Seed := by unfold Statement; decide
theorem hash64Seeds : Statement .hash64Seeds := by unfold Statement; decide
theorem hash128 : Statement .hash128 := by unfold Statement; decide
theorem hash128Seed : Statement .hash128Seed := by unfold Statement; decide
theorem fold128 : Statement .fold128 := by unfold Statement; decide
theorem hashcrc128 : Statement .hashcrc128 := by unfold Statement; decide
theorem hashcrc128Seed : Statement .hashcrc128Seed := by unfold Statement; decide
theorem hashcrc256 : Statement .hashcrc256 := by unfold Statement; decide

end Sys2Proof.Laws.FormatC
end

