-- ==== Sys2Proof/Laws/Registers.lean ====
section
/-! SUPPORT. What a host write to a register can do (10_state.md R21 to R34, 60_exceptions.md R265, R267). -/

namespace Sys2Proof.Machine

theorem offerCommand_idle {v : Word64} {s : State} (h : s.status.busy = false) : offerCommand v s = accept v s := by
  simp [offerCommand, h]

theorem offerCommand_busy {v : Word64} {s : State} (h : s.status.busy = true) :
    offerCommand v s = { s with status := s.status.dropped } := by
  simp [offerCommand, h]

/-- Everything a host write to a register can do. -/
theorem regWrite_cases (r : Reg) (v : Word64) (s : State) :
    regWrite r v s = s ∨
    (r = .ctrl ∧ regWrite r v s = { s with irqEn := irqEnOfWrite v }) ∨
    (r = .status ∧ regWrite r v s = { s with status := s.status.hostWrite v }) ∨
    (r = .cmd ∧ s.status.busy = false ∧ regWrite r v s = accept v s) ∨
    (r = .cmd ∧ s.status.busy = true ∧ regWrite r v s = { s with status := s.status.dropped }) ∨
    (r = .src ∧ regWrite r v s = { s with src := v }) ∨
    (r = .len ∧ regWrite r v s = { s with len := v }) ∨
    (r = .seed0 ∧ regWrite r v s = { s with seed0 := v }) ∨
    (r = .seed1 ∧ regWrite r v s = { s with seed1 := v }) := by
  cases r <;> simp [regWrite]
  cases h : s.status.busy <;> simp [offerCommand, h]

/-- What no register write changes: the parameters, the results, the source memory and everything outside the block. -/
theorem regWrite_keeps (r : Reg) (v : Word64) (s : State) :
    (regWrite r v s).params = s.params ∧ (regWrite r v s).res = s.res ∧ (regWrite r v s).faultAddr = s.faultAddr ∧
    (regWrite r v s).mem = s.mem ∧ (regWrite r v s).draws = s.draws ∧ (regWrite r v s).hosts = s.hosts ∧
    (regWrite r v s).schedule = s.schedule := by
  rcases regWrite_cases r v s with h | ⟨_, h⟩ | ⟨_, h⟩ | ⟨_, _, h⟩ | ⟨_, _, h⟩ | ⟨_, h⟩ | ⟨_, h⟩ | ⟨_, h⟩ | ⟨_, h⟩ <;>
    rw [h] <;> exact ⟨rfl, rfl, rfl, rfl, rfl, rfl, rfl⟩

/-- No register write ends a running command. -/
theorem regWrite_busy {r : Reg} {v : Word64} {s : State} (h : s.status.busy = true) :
    (regWrite r v s).status.busy = true := by
  rcases regWrite_cases r v s with e | ⟨_, e⟩ | ⟨_, e⟩ | ⟨_, hb, e⟩ | ⟨_, _, e⟩ | ⟨_, e⟩ | ⟨_, e⟩ | ⟨_, e⟩ | ⟨_, e⟩ <;> rw [e]
  all_goals first
    | exact h
    | rfl

/-- Every offset of the window that names a register is a multiple of 8 below 0x100 (10_state.md R21). -/
theorem Reg.ofOffset_bound {off : Nat} {r : Reg} (h : Reg.ofOffset off = some r) : off < 0x100 ∧ off % 8 = 0 := by
  unfold Reg.ofOffset at h
  by_cases h1 : off ≤ 0x60 ∧ off % 8 = 0
  · omega
  · repeat rw [if_neg (by omega)] at h
    split at h
    · split at h
      · omega
      · simp at h
    · simp at h

/-- `Reg.ofOffset` and `Reg.offset` are inverse. -/
theorem Reg.ofOffset_eq_some {off : Nat} {r : Reg} : Reg.ofOffset off = some r ↔ off = r.offset := by
  constructor
  · intro h
    obtain ⟨h1, h2⟩ := Reg.ofOffset_bound h
    have : off / 8 < 32 := by omega
    have e : off = 8 * (off / 8) := by omega
    generalize off / 8 = q at *
    subst e
    interval_cases q <;> (obtain rfl := Option.some.inj h; rfl)
  · rintro rfl
    cases r with
    | reserved k => fin_cases k <;> rfl
    | _ => rfl

end Sys2Proof.Machine
end

