-- ==== Sys2Proof/Laws/Turns.lean ====
section
/-! SUPPORT. What a command, a completion step, a host agent's step and a machine step can do: one inversion lemma each. -/

namespace Sys2Proof.Machine

/-- Every command answers a completion, with its results or with a draw, and a bus fault names a real address. -/
theorem exec_cases (i : Instr) (s : State) :
    ∃ c : Completion, (exec i s = .next (complete c s) ∨ exec i s = .next (completeDrawn c s)) ∧
      ∀ a, c = .busFault a → a ≠ 0 ∧ isReadable s.params a.toNat = false := by
  have hw : ∀ f : View → Quad, ∃ c : Completion,
      (runOnWindow f s = .next (complete c s) ∨ runOnWindow f s = .next (completeDrawn c s)) ∧
        ∀ a, c = .busFault a → a ≠ 0 ∧ isReadable s.params a.toNat = false := fun f =>
    ⟨windowCompletion f s, runOnWindow_next f s, fun a => windowCompletion_busFault⟩
  have hc : ∀ f : View → Quad, ∃ c : Completion,
      (runOnWindowIfCrc f s = .next (complete c s) ∨ runOnWindowIfCrc f s = .next (completeDrawn c s)) ∧
        ∀ a, c = .busFault a → a ≠ 0 ∧ isReadable s.params a.toNat = false := by
    intro f
    unfold runOnWindowIfCrc
    split
    · exact hw f
    · exact ⟨.illegalOp, .inl rfl, by simp⟩
  cases i with
  | hash32 => exact hw _
  | hash64 => exact hw _
  | hash64Seed => exact hw _
  | hash64Seeds => exact hw _
  | hash128 => exact hw _
  | hash128Seed => exact hw _
  | fold128 => exact ⟨_, .inl rfl, by simp⟩
  | hashcrc128 => exact hc _
  | hashcrc128Seed => exact hc _
  | hashcrc256 => exact hc _

/-- The block agent's step: nothing while IDLE, one completion while BUSY. -/
theorem blockStep_cases (s : State) :
    (s.status.busy = false ∧ blockStep s = .next s) ∨
    (s.status.busy = true ∧ ∃ c : Completion,
      (blockStep s = .next (complete c s) ∨ blockStep s = .next (completeDrawn c s)) ∧
        ∀ a, c = .busFault a → a ≠ 0 ∧ isReadable s.params a.toNat = false) := by
  cases h : s.status.busy with
  | false => exact .inl ⟨rfl, by simp [blockStep, h]⟩
  | true =>
    refine .inr ⟨rfl, ?_⟩
    simp only [blockStep, h, if_true]
    cases s.command with
    | command i => exact exec_cases i s
    | illegal w => exact ⟨.illegalOp, .inl rfl, by simp⟩

/-- Everything a host agent's turn can do to the state: nothing but to the agents, one register write that the agent's next
statement makes, or one byte stored that its next statement names. -/
theorem hostTurn_cases {k : Nat} {s : State} (hn : s.nextTurn = .host k) :
    (∃ hs, hostStep k s.takeTurn = { s.takeTurn with hosts := hs }) ∨
    (∃ r v hs, NextWrites s r v ∧ hostStep k s.takeTurn = { regWrite r v s.takeTurn with hosts := hs }) ∨
    (∃ g a b rest hs, a < 2 ^ 64 ∧ NextStmt s k g (.store a (b :: rest)) ∧
      hostStep k s.takeTurn = { storeByte a b s.takeTurn with hosts := hs }) := by
  have hset : ∀ (u : State) (x : HostAgent), u.setHost k x = { u with hosts := u.hosts.set k x } := fun _ _ => rfl
  have stay : ∃ hs, s.takeTurn = { s.takeTurn with hosts := hs } := ⟨s.hosts, rfl⟩
  unfold hostStep
  cases hk : s.takeTurn.hosts[k]? with
  | none => exact .inl stay
  | some g =>
    have hwr : ∀ r v, hostWrite k g r v s.takeTurn =
        { regWrite r v s.takeTurn with hosts := s.takeTurn.hosts.set k g.advance } := by
      intro r v
      rw [hostWrite, hset, (regWrite_keeps r v s.takeTurn).2.2.2.2.2.1]
    simp only
    split
    · exact .inl stay
    · next hs =>
      split
      · exact .inl stay
      · next st rest hp =>
        have ns : NextStmt s k g st := ⟨hn, hk, by simpa using hs, by rw [hp]; rfl⟩
        cases st with
        | wr r v => exact .inr (.inl ⟨r, v, _, ⟨k, g, .inl ns⟩, hwr r v⟩)
        | rd r => exact .inl ⟨_, hset _ _⟩
        | wait =>
          simp only [runStmt, hostWait]
          split
          · exact .inl stay
          · exact .inl ⟨_, hset _ _⟩
        | store a bytes =>
          cases bytes with
          | nil => exact .inl ⟨_, hset _ _⟩
          | cons b bs =>
            simp only [runStmt, hostStore]
            split
            · next ha => exact .inr (.inr ⟨g, a, b, bs, _, ha, ns, hset _ _⟩)
            · exact .inl ⟨_, hset _ _⟩
        | bus a =>
          simp only [runStmt, hostBus]
          split
          · exact .inl ⟨_, hset _ _⟩
          · next r hr =>
            split
            · exact .inl ⟨_, hset _ _⟩
            · next v hv => exact .inr (.inl ⟨r, v, _, ⟨k, g, .inr ⟨a, ns, hr, hv⟩⟩, hwr r v⟩)

/-- The step of a state whose next statement is known. -/
theorem step_of_nextStmt {s : State} {k : Nat} {g : HostAgent} {st : Stmt} (h : NextStmt s k g st) :
    step s = .next (runStmt k g st s.takeTurn) := by
  obtain ⟨hn, hk, hs, hp⟩ := h
  have hk' : s.takeTurn.hosts[k]? = some g := hk
  simp only [step, hn, runTurn, hostStep, hk', hs]
  cases hg : g.program with
  | nil => simp [hg] at hp
  | cons x xs =>
    simp only [hg, List.head?_cons, Option.some.injEq] at hp
    simp [hp]

/-- Everything a machine step can do. -/
theorem step_cases {s t : State} (h : step s = .next t) :
    (s.nextTurn = .reset ∧ t = resetBlock s.takeTurn) ∨
    (∃ k, s.nextTurn = .host k ∧ t = hostStep k s.takeTurn) ∨
    (s.nextTurn = .block ∧ blockStep s.takeTurn = .next t) := by
  unfold step at h
  cases hn : s.nextTurn with
  | reset => rw [hn] at h; simp only [runTurn, Host.Outcome.next.injEq] at h; exact .inl ⟨rfl, h.symm⟩
  | host k => rw [hn] at h; simp only [runTurn, Host.Outcome.next.injEq] at h; exact .inr (.inl ⟨k, rfl, h.symm⟩)
  | block => rw [hn] at h; exact .inr (.inr ⟨rfl, h⟩)

/-- A run's first step. -/
theorem core_run_succ {s t : State} (h : step s = .next t) (n : Nat) : core.run (n + 1) s = core.run n t := by
  have gen : ∀ (M : Host.Core) (x y : M.State), M.step x = .next y → M.run (n + 1) x = M.run n y := by
    intro M x y e
    simp [Host.Core.run, e]
  exact gen core s t h

end Sys2Proof.Machine
end

