-- ==== Sys2Proof/Tests/Slice0.lean ====
section
/-! SUPPORT. The model's own tests, each on one step of a small state, with expected values from the spec's tables; and for
every obligation with hypotheses a named witness that meets them. -/

namespace Sys2Proof.Tests

open Sys2Proof Sys2Proof.Machine

/-- The parameters of the vectors of 95_test_vectors.md section 2.10, with a chosen `HAS_CRC`. -/
def vecParams (hasCrc : Bool) : Params :=
  { hasCrc := hasCrc
    regPage := 0
    readable := [⟨0x1000, 0xffff⟩, ⟨0xfffffffffffff000, 0xffffffffffffffff⟩]
    sideEffecting := [] }

/-- A command accepted and about to complete. -/
def pending (hasCrc : Bool) (op src len seed0 seed1 : Word64) : State :=
  { State.init (vecParams hasCrc) with
    status := ⟨true, false, false, .ok⟩
    latched := ⟨op, src, len, seed0, seed1⟩
    schedule := [.block] }

/-- The input `A(n)` of 95_test_vectors.md stored from 0x1000 on, for `n` up to 256. -/
def inputA (n : Nat) : List Host.Cell := (List.range (n - 1)).map fun i => (0x1001 + i, BitVec.ofNat 8 (i + 1))

/-- A command on `A(n)`. -/
def onA (n : Nat) (hasCrc : Bool) (op seed0 seed1 : Word64) : State :=
  { pending hasCrc op 0x1000 (BitVec.ofNat 64 n) seed0 seed1 with mem := inputA n }

/-- STATUS, RES0, RES1 and FAULT_ADDR after the next step, as the host reads them. -/
def seen (s : State) : Option (Word64 × Word64 × Word64 × Word64) :=
  match step s with
  | .next t => some (regRead .status t, regRead .res0 t, regRead .res1 t, regRead .faultAddr t)
  | .fault _ => none
  | .refused _ => none

/-- A state with one host agent whose turn is next. -/
def hosted (st : Stmt) (s : State) : State := { s with hosts := [⟨[st], [], false⟩], schedule := [.host 0] }

/-! ## Well-formedness and decoding -/

theorem test_wellFormed_refuses_crc_without_capability :
    [Instr.hashcrc128, .hashcrc128Seed, .hashcrc256].all (fun i => !i.wellFormed false && i.wellFormed true) = true ∧
    Instr.hash128Seed.wellFormed false = true := by decide

/-- 30_encoding.md R81, R83: RSVD is 56 zero bits, OP the low eight. -/
theorem test_decode_words_bit_by_bit :
    decode false ((0 : BitVec 56) ++ 0b00000001#8) = .command .hash32 ∧
    decode false ((0 : BitVec 56) ++ 0b00000010#8) = .command .hash64 ∧
    decode false ((0 : BitVec 56) ++ 0b00000011#8) = .command .hash64Seed ∧
    decode false ((0 : BitVec 56) ++ 0b00000100#8) = .command .hash64Seeds ∧
    decode false ((0 : BitVec 56) ++ 0b00000101#8) = .command .hash128 ∧
    decode false ((0 : BitVec 56) ++ 0b00000110#8) = .command .hash128Seed ∧
    decode false ((0 : BitVec 56) ++ 0b00000111#8) = .command .fold128 ∧
    decode true ((0 : BitVec 56) ++ 0b00001000#8) = .command .hashcrc128 ∧
    decode true ((0 : BitVec 56) ++ 0b00001001#8) = .command .hashcrc128Seed ∧
    decode true ((0 : BitVec 56) ++ 0b00001010#8) = .command .hashcrc256 := by decide

/-- 30_encoding.md R88: each of the three reasons. -/
theorem test_decode_rejects_by_name :
    decode true 0x0B = .illegal .reservedOp ∧ decode true 0x100000000000002 = .illegal .reservedField ∧
    decode false 0x0A = .illegal .crcAbsent := by decide

/-! ## One result per command, from 95_test_vectors.md section 2 -/

/-- Section 2.2, n = 25: the long path. -/
theorem test_hash32_A25 : seen (onA 25 false 1 0 0) = some (2, 0x2e6ddf78, 0, 0) := by decide +kernel
/-- Section 2.3, n = 33. -/
theorem test_hash64_A33 : seen (onA 33 false 2 0 0) = some (2, 0x46e1378cbc22daba, 0, 0) := by decide +kernel
/-- Section 2.3, n = 128: the long path. -/
theorem test_hash64_A128 : seen (onA 128 false 2 0 0) = some (2, 0x10b153630af1f395, 0, 0) := by decide +kernel
/-- Section 2.4, n = 17. -/
theorem test_hash64Seed_A17 :
    seen (onA 17 false 3 0x0123456789abcdef 0) = some (2, 0xc5c9d2727de877ed, 0, 0) := by decide +kernel
theorem test_hash64Seeds_A17 : seen (onA 17 false 4 1 2) = some (2, 0x543ed86f91676f08, 0, 0) := by decide +kernel
/-- Section 2.5, n = 33 (CityMurmur) and n = 144 (the long path). -/
theorem test_hash128_A33 :
    seen (onA 33 false 5 0 0) = some (2, 0x000e6231c59d57c9, 0xdd7bc7669361e16e, 0) := by decide +kernel
theorem test_hash128_A144 :
    seen (onA 144 false 5 0 0) = some (2, 0x11a3eb8dc4c0134e, 0xcda5dffa39190336, 0) := by decide +kernel
/-- Section 2.6, n = 128. -/
theorem test_hash128Seed_A128 :
    seen (onA 128 false 6 1 2) = some (2, 0xb5a40790dca0465e, 0x716154637719918f, 0) := by decide +kernel
/-- Section 2.6, n = 129: the long path with a tail chunk. -/
theorem test_hash128Seed_A129 :
    seen (onA 129 false 6 1 2) = some (2, 0x9887ec3dbc358f5e, 0x58ac2274b0bf6ef0, 0) := by decide +kernel
/-- Section 2.7. -/
theorem test_fold128 :
    seen (pending false 7 0 0xffffffffffffffff 0x0123456789abcdef 0xfedcba9876543210) =
      some (2, 0x79d79d1de9fa18dd, 0, 0) := by decide +kernel
/-- 45_crc.md R240, R241: up to 900 bytes the values of sections 2.5 and 2.6. -/
theorem test_hashcrc128_A33 :
    seen (onA 33 true 8 0 0) = some (2, 0x000e6231c59d57c9, 0xdd7bc7669361e16e, 0) := by decide +kernel
theorem test_hashcrc128Seed_A17 :
    seen (onA 17 true 9 1 2) = some (2, 0xf4451117525e1ec0, 0xf336e5b5e0fe8972, 0) := by decide +kernel
/-- 45_crc.md R242: the four words are those of `CRC256`, whatever they are. -/
theorem test_hashcrc256_is_the_parameter :
    step (pending true 10 0x1000 0 0 0) =
      .next (recordOf .ok (Config.crc256 []) 0 { pending true 10 0x1000 0 0 0 with schedule := [] }) := rfl

/-! ## Causes, from 95_test_vectors.md section 2.10 -/

theorem test_V3_absent_before_range : seen (pending false 2 0 0xffffffffffffffff 1 2) = some (0x12, 0, 0, 0) := by decide
theorem test_V6_illegal_before_absent : seen (pending false 0x0B 0 1 1 2) = some (0x22, 0, 0, 0) := by decide
theorem test_V7_crc_without_capability : seen (pending false 8 0x1000 0x10 1 2) = some (0x22, 0, 0, 0) := by decide
theorem test_V8_range : seen (pending false 2 0xfffffffffffffff0 0x11 1 2) = some (0x32, 0, 0, 0) := by decide
theorem test_V9_ends_at_top : seen (pending false 2 0xfffffffffffffff0 0x10 1 2) = some (2, 0x30902d4dcfed5815, 0, 0) := by
  decide +kernel
theorem test_V11_bus_fault : seen (pending false 5 0xfff8 0x10 1 2) = some (0x42, 0, 0, 0x10000) := by decide

/-! ## Registers and host agents -/

/-- Section 3, P3's rule: a second CMD write while BUSY sets OVR alone (60_exceptions.md R267). -/
theorem test_dropped_command : (regWrite .cmd 7 (pending false 2 0x1000 5 0 0)).status = ⟨true, false, true, .ok⟩ := by decide
/-- 10_state.md R25: bits 0 and 7:4 of the written value do nothing. -/
theorem test_status_write :
    Status.hostWrite 0xF5 ⟨false, true, true, .range⟩ = ⟨false, true, false, .range⟩ := by decide
/-- 20_memory.md R60: 32 bits, a misaligned address and an address past the window are not admitted. -/
theorem test_admitted :
    admitted Params.default ⟨0x18, 8, .read⟩ = some .cmd ∧ admitted Params.default ⟨0x18, 4, .read⟩ = none ∧
    admitted Params.default ⟨0x1C, 8, .read⟩ = none ∧ admitted Params.default ⟨0x100, 8, .read⟩ = none ∧
    admitted Params.default ⟨0xF8, 8, .read⟩ = some (.reserved 18) := by decide
/-- Section 3, P1: the encoding of a `wait` that reads BUSY once. -/
theorem test_transactions :
    Stmt.transactions Params.default (Stmt.issue .hash64) [] = some [⟨.w, 0x18, 2⟩] ∧
    Stmt.transactions Params.default .wait [1, 2] = some [⟨.r, 0x10, 1⟩, ⟨.r, 0x10, 2⟩] ∧
    Stmt.transactions Params.default .wait [2, 2] = none := by decide
/-- 30_encoding.md R92. -/
theorem test_expand_hash64s :
    (Pseudo.hash64s 0x1000 4 9).expand =
      [.wr .src 0x1000, .wr .len 4, .wr .seed0 9, .wr .cmd 3, .wait, .rd .status, .rd .res0] := by decide
/-- log 13: the placed word is the one the next step runs, as the first after reset. -/
theorem test_withFetchWord_runs_hash64 :
    step (State.reset.withFetchWord 64 2) = exec .hash64 (State.reset.withFetchWord 64 2).takeTurn := rfl
theorem test_withFetchWord_runs_hashcrc256 :
    step (State.reset.withFetchWord 64 10) = exec .hashcrc256 (State.reset.withFetchWord 64 10).takeTurn := rfl
theorem test_memory_write_keeps_the_form :
    Memory.write [(3, 7)] 5 1 = [(3, 7), (5, 1)] ∧ Memory.write [(3, 7), (5, 1)] 3 0 = [(5, 1)] ∧
    Memory.wf State.reset.mem = true := by decide

/-! ## Witnesses: concrete states that meet the obligations' hypotheses -/

theorem everything_readable {a : Nat} (h : a < 2 ^ 64) : isReadable Params.default a = true := by
  simp only [isReadable, Params.default, List.any_cons, List.any_nil, AddrRange.holds]
  simp
  omega

/-- A pending command on an instance where everything is readable. -/
def open64 (hasCrc : Bool) (op src len : Word64) : State :=
  { pending hasCrc op src len 0 0 with params := { Params.default with hasCrc := hasCrc } }

/-- `WindowOk` is met by windows of every length, up to the top of the address space. -/
theorem windowOk_open64 (hasCrc : Bool) (op src len : Word64) (h0 : src ≠ 0) (h : src.toNat + len.toNat ≤ 2 ^ 64) :
    WindowOk (open64 hasCrc op src len) :=
  ⟨h0, h, fun i hi => everything_readable (a := src.toNat + i) (by
      have : i < len.toNat := hi
      omega), rfl, fun _ _ => rfl⟩

theorem witness_DecodeIsTheOpcodeMap_illegal :
    (pending false 0xB0 0 0 0 0).nextTurn = .block ∧ (pending false 0xB0 0 0 0 0).status.busy = true ∧
    decode (pending false 0xB0 0 0 0 0).params.hasCrc (pending false 0xB0 0 0 0 0).latched.op = .illegal .reservedOp := by
  decide

theorem witness_StepRunsTheDecodedCommand :
    (pending false 3 0x1000 5 7 8).nextTurn = .block ∧ (pending false 3 0x1000 5 7 8).status.busy = true ∧
    decode (pending false 3 0x1000 5 7 8).params.hasCrc (pending false 3 0x1000 5 7 8).latched.op =
      .command .hash64Seed := by decide

theorem witness_IllegalWord_hypotheses (v : Word64) :
    (pending false v 0 0 0 0).nextTurn = .block ∧ (pending false v 0 0 0 0).status.busy = true ∧
    (pending false v 0 0 0 0).latched.op = v ∧ (pending false v 0 0 0 0).params.hasCrc = false := ⟨rfl, rfl, rfl, rfl⟩

theorem witness_IllegalWord_each_reason :
    (0x100 : Word64) >>> 8 ≠ 0 ∧ (0x8000000000000002 : Word64) >>> 8 ≠ 0 ∧ (0 : Word64) &&& 0xFF = 0 ∧
    0x0B ≤ ((0x0B : Word64) &&& 0xFF).toNat ∧ 0x0B ≤ ((0xFF : Word64) &&& 0xFF).toNat ∧
    0x08 ≤ ((0x08 : Word64) &&& 0xFF).toNat ∧ 0x08 ≤ ((0x0A : Word64) &&& 0xFF).toNat := by decide

theorem witness_IdleBlockTakesNoStep :
    State.reset.nextTurn = .block ∧ State.reset.status.busy = false := by decide

/-- A stuck agent, a finished one and one that can move; the schedule used up. -/
def threeHosts : State :=
  { State.reset with hosts := [⟨[.wait], [], true⟩, ⟨[], [], false⟩, ⟨[.wait], [], false⟩] }

theorem witness_UsedUpSchedule :
    ({ pending false 2 0 0 0 0 with schedule := [] }).status.busy = true ∧
    ({ pending false 2 0 0 0 0 with schedule := [] }).schedule = [] ∧
    (State.reset.schedule = [] ∧ State.reset.status.busy = false ∧ ∀ h ∈ State.reset.hosts, h.ready = false) ∧
    (threeHosts.schedule = [] ∧ threeHosts.status.busy = false ∧
      (⟨[.wait], [], false⟩ : HostAgent) ∈ threeHosts.hosts ∧ (⟨[.wait], [], false⟩ : HostAgent).ready = true) ∧
    threeHosts.nextTurn = .host 2 := by decide

/-- Hash32, Hash64, Hash128: an empty window at the last address, and one that ends at the top of the address space. -/
theorem witness_WindowOk :
    WindowOk (open64 false 1 0xffffffffffffffff 0) ∧ WindowOk (open64 false 1 0xfffffffffffffff0 0x10) ∧
    WindowOk (open64 false 5 1 0xffffffffffffffff) :=
  ⟨windowOk_open64 _ _ _ _ (by decide) (by decide), windowOk_open64 _ _ _ _ (by decide) (by decide),
    windowOk_open64 _ _ _ _ (by decide) (by decide)⟩

theorem witness_Fold128_reserved_bit : (0x107 : Word64) >>> 8 ≠ 0 := by decide

/-- CrcCommandsCompleteWithTheirHash: both sides of the 900-byte threshold. -/
theorem witness_CrcCommandsComplete :
    (WindowOk (open64 true 8 0x1000 900) ∧ (open64 true 8 0x1000 900).params.hasCrc = true ∧
      (open64 true 8 0x1000 900).latched.len.toNat ≤ 900) ∧
    (WindowOk (open64 true 8 0x1000 901) ∧ (open64 true 8 0x1000 901).params.hasCrc = true ∧
      900 < (open64 true 8 0x1000 901).latched.len.toNat) :=
  ⟨⟨windowOk_open64 _ _ _ _ (by decide) (by decide), rfl, by decide⟩,
    windowOk_open64 _ _ _ _ (by decide) (by decide), rfl, by decide⟩

theorem witness_CrcCommandsNeedTheCapability :
    (∀ i ∈ [Instr.hashcrc128, .hashcrc128Seed, .hashcrc256], i.usesCrc = true) ∧
    State.reset.params.hasCrc = false := by decide

/-- WindowCheckRaisesTheFirstCause: each clause at its boundary (the last two are an empty window on an unreadable address and a
window that starts readable and ends unreadable). -/
theorem witness_WindowCheck :
    checkWindow (vecParams false) ⟨2, 0, 0xffffffffffffffff, 0, 0⟩ = some .absent ∧
    checkWindow (vecParams false) ⟨2, 0xffffffffffffffff, 1, 0, 0⟩ = none ∧
    checkWindow (vecParams false) ⟨2, 0xffffffffffffffff, 2, 0, 0⟩ = some .range ∧
    checkWindow (vecParams false) ⟨2, 0xfff, 2, 0, 0⟩ = some (.busFault 0xfff) ∧
    checkWindow (vecParams false) ⟨2, 0xffff, 2, 0, 0⟩ = some (.busFault 0x10000) ∧
    checkWindow (vecParams false) ⟨2, 0x10000, 0, 0, 0⟩ = none := by decide

theorem witness_BadWindow_hypotheses :
    (∀ i ∈ [Instr.hash32, .hash64, .hash64Seed, .hash64Seeds, .hash128, .hash128Seed, .hashcrc128, .hashcrc128Seed,
      .hashcrc256], i.readsWindow = true ∧ i.wellFormed (pending true 2 0 0 0 0).params.hasCrc = true) ∧
    (pending true 2 0 0 0 0).windowWritten = false ∧ (pending true 2 0 0 0 0).latched.src = 0 := by decide

theorem witness_BadWindow_range :
    (pending true 2 0xffffffffffffffff 2 0 0).latched.src ≠ 0 ∧
    0 < (pending true 2 0xffffffffffffffff 2 0 0).latched.len.toNat ∧
    2 ^ 64 < (pending true 2 0xffffffffffffffff 2 0 0).latched.src.toNat +
      (pending true 2 0xffffffffffffffff 2 0 0).latched.len.toNat := by decide

/-- The first unreadable byte is the last of the window. -/
theorem witness_BadWindow_busFault :
    (pending true 2 0xfffe 3 0 0).latched.src ≠ 0 ∧
    (pending true 2 0xfffe 3 0 0).latched.src.toNat + (pending true 2 0xfffe 3 0 0).latched.len.toNat ≤ 2 ^ 64 ∧
    isReadable (vecParams true) (0x10000 : Word64).toNat = false ∧
    isReadable (vecParams true) 0xfffe = true ∧ isReadable (vecParams true) 0xffff = true := by decide

theorem witness_WrittenWindow :
    Instr.hash32.readsWindow = true ∧ ({ pending false 1 0x1000 5 0 0 with windowWritten := true }).windowWritten = true ∧
    Instr.hash32.wellFormed (pending false 1 0x1000 5 0 0).params.hasCrc = true := by decide

/-- Two readable bytes, the last of which has reads with side effects. -/
def sideEffects : State :=
  { pending false 2 0x1000 2 0 0 with params := { vecParams false with sideEffecting := [⟨0x1001, 0x1001⟩] } }

theorem witness_SideEffectingWindow :
    Instr.hash64.readsWindow = true ∧ Instr.hash64.wellFormed sideEffects.params.hasCrc = true ∧
    sideEffects.latched.src ≠ 0 ∧ sideEffects.latched.src.toNat + sideEffects.latched.len.toNat ≤ 2 ^ 64 ∧
    (∀ j, j < sideEffects.latched.len.toNat →
      isReadable sideEffects.params (sideEffects.latched.src.toNat + j) = true) ∧
    1 < sideEffects.latched.len.toNat ∧
    isSideEffecting sideEffects.params (sideEffects.latched.src.toNat + 1) = true := by decide

/-- Two states alike in the latch and the window's bytes, and different in the live registers, STATUS, the results and the byte
after the window. -/
theorem witness_CompletionDependsOnlyOnLatchAndWindow :
    (onA 2 false 2 0 0).latched = ({ onA 2 false 2 0 0 with src := 9, res := ⟨1, 1, 1, 1⟩, mem := inputA 3 }).latched ∧
    (∀ a, a < 0x1002 → 0x1000 ≤ a → Memory.read (inputA 2) a = Memory.read (inputA 3) a) ∧
    Memory.read (inputA 2) 0x1002 ≠ Memory.read (inputA 3) 0x1002 := by
  refine ⟨rfl, ?_, by decide⟩
  intro a h1 h2
  interval_cases a <;> decide

/-- One byte, the same at two addresses. -/
theorem witness_RelocatedWindow :
    WindowOk ({ open64 false 2 0x1000 1 with mem := [(0x1000, 5)] }) ∧
    WindowOk ({ open64 false 2 0x2000 1 with mem := [(0x2000, 5)] }) ∧
    (∀ j, j < 1 → Memory.read [(0x1000, 5)] (0x1000 + j) = Memory.read [(0x2000, 5)] (0x2000 + j)) :=
  ⟨⟨by decide, by decide, (windowOk_open64 false 2 0x1000 1 (by decide) (by decide)).allReadable, rfl, fun _ _ => rfl⟩,
    ⟨by decide, by decide, (windowOk_open64 false 2 0x2000 1 (by decide) (by decide)).allReadable, rfl, fun _ _ => rfl⟩,
    by decide⟩

theorem witness_OperandWritesWhileBusy : (.ctrl : Reg) = .src ∨ (.ctrl : Reg) = .len ∨ (.ctrl : Reg) = .seed0 ∨
    (.ctrl : Reg) = .seed1 ∨ (.ctrl : Reg) = .ctrl := by decide

theorem witness_Acceptance_and_drop :
    State.reset.status.busy = false ∧ decode State.reset.params.hasCrc 0x0A = .illegal .crcAbsent ∧
    (pending false 2 0 0 0 0).status.busy = true := by decide

/-- A CMD write as an agent's next statement, at the block's register and as a bus access. -/
theorem witness_NextWrites :
    NextWrites (hosted (.wr .cmd 7) State.reset) .cmd 7 ∧
    NextWrites (hosted (.bus ⟨0x18, 8, .write 7⟩) State.reset) .cmd 7 :=
  ⟨⟨0, _, .inl ⟨rfl, rfl, rfl, rfl⟩⟩, ⟨0, _, .inr ⟨_, ⟨rfl, rfl, rfl, rfl⟩, by decide, rfl⟩⟩⟩

/-- OVR is cleared by a host write of 4 to STATUS, and by reset. -/
theorem witness_OvrCleared :
    (∃ s t : State, step s = .next t ∧ s.status.ovr = true ∧ t.status.ovr = false ∧ s.nextTurn = .host 0) ∧
    (∃ s t : State, step s = .next t ∧ s.status.ovr = true ∧ t.status.ovr = false ∧ s.nextTurn = .reset) :=
  ⟨⟨hosted (.wr .status 4) { State.reset with status := ⟨false, true, true, .ok⟩ }, _, rfl, rfl, rfl, rfl⟩,
    ⟨{ State.reset with status := ⟨true, false, true, .ok⟩, schedule := [.reset] }, _, rfl, rfl, rfl, rfl⟩⟩

theorem witness_StatusWrite :
    (0xFE : Word64) &&& 0x6 = 0x6 &&& 0x6 ∧ State.reset.status.done = false := by decide

theorem witness_ResetStep : ({ pending false 2 0 0 0 0 with schedule := [.reset] }).nextTurn = .reset := by decide

/-- A BUS_FAULT completion reached from a state with the invariant. -/
theorem witness_EveryStepKeepsTheInvariant :
    Inv (pending false 5 0xfff8 0x10 1 2) ∧
    ∃ t, step (pending false 5 0xfff8 0x10 1 2) = .next t ∧ t.status.cause = .busFault ∧ t.faultAddr = 0x10000 :=
  ⟨⟨by decide, by decide, by decide, by decide⟩, _, rfl, by decide, by decide⟩

/-- The state after a step exists and shows the phase named. -/
theorem witness_PhaseChanges :
    (∃ s t : State, step s = .next t ∧ s.status.busy = false ∧ t.status.busy = true) ∧
    (∃ s t : State, step s = .next t ∧ s.status.busy = true ∧ t.status.busy = false ∧ s.nextTurn = .block) ∧
    (∃ s t : State, step s = .next t ∧ s.status.busy = true ∧ t.status.busy = false ∧ s.nextTurn = .reset) :=
  ⟨⟨hosted (.wr .cmd 0xFF) State.reset, _, rfl, rfl, rfl⟩, ⟨pending false 7 0 0 0 0, _, rfl, rfl, rfl, rfl⟩,
    ⟨{ pending false 7 0 0 0 0 with schedule := [.reset] }, _, rfl, rfl, rfl, rfl⟩⟩

/-- RES0 changes by a completion (95_test_vectors.md section 2.7) and by a reset; FAULT_ADDR changes by a completion. -/
theorem witness_ResultsChange :
    (∃ t, step (pending false 7 0 0 1 2) = .next t ∧ t.res ≠ (pending false 7 0 0 1 2).res) ∧
    (∃ t, step { State.reset with res := ⟨1, 0, 0, 0⟩, schedule := [.reset] } = .next t ∧ t.res ≠ ⟨1, 0, 0, 0⟩) ∧
    (∃ t, step (pending false 5 0xffff 2 0 0) = .next t ∧ t.faultAddr ≠ 0) :=
  ⟨⟨_, rfl, by decide⟩, ⟨_, rfl, by decide⟩, ⟨_, rfl, by decide⟩⟩

/-- OnlyHostStoresChangeSourceMemory and StoreWritesOneByteAndMarksTheWindow: a store into the latched window, at the last
address, and one above it. -/
theorem witness_Stores :
    NextStmt (hosted (.store 0x1004 [0xAB, 0xCD]) (pending false 2 0x1000 5 0 0)) 0
      ⟨[.store 0x1004 [0xAB, 0xCD]], [], false⟩ (.store 0x1004 [0xAB, 0xCD]) ∧
    (∃ t, step (hosted (.store 0x1004 [0xAB, 0xCD]) (pending false 2 0x1000 5 0 0)) = .next t ∧
      t.mem = [(0x1004, 0xAB)] ∧ t.windowWritten = true) ∧
    (∃ t, step (hosted (.store 0x1005 [0xAB]) (pending false 2 0x1000 5 0 0)) = .next t ∧ t.windowWritten = false) ∧
    (∃ t, step (hosted (.store (2 ^ 64 - 1) [1]) State.reset) = .next t ∧ t.mem = [(2 ^ 64 - 1, 1)]) ∧
    (∃ t, step (hosted (.store (2 ^ 64) [1]) (pending false 2 0x1000 5 0 0)) = .next t ∧ t.mem = [] ∧
      t.hosts = [⟨[.store (2 ^ 64) [1]], [], true⟩] ∧ t.status.busy = true) ∧
    Memory.wf State.reset.mem = true :=
  ⟨⟨rfl, rfl, rfl, rfl⟩, ⟨_, rfl, by decide, by decide⟩, ⟨_, rfl, by decide⟩, ⟨_, rfl, by decide⟩,
    ⟨_, rfl, by decide, by decide, by decide⟩, by decide⟩

theorem witness_CapabilityNeverChanges : ∃ t, step State.reset = .next t := ⟨_, rfl⟩

theorem witness_AcceptedCommandCompletes :
    ({ pending false 2 0x1000 1 0 0 with schedule := [.host 0, .host 3] }).status.busy = true := rfl

theorem witness_LatchIsUnobservableWhileIdle : (hosted (.wr .cmd 1) State.reset).status.busy = false := rfl

/-- A 32-bit access, and an agent already stuck. -/
theorem witness_UnadmittedAccess :
    NextStmt (hosted (.bus ⟨0x10, 4, .read⟩) State.reset) 0 ⟨[.bus ⟨0x10, 4, .read⟩], [], false⟩
      (.bus ⟨0x10, 4, .read⟩) ∧
    admitted (hosted (.bus ⟨0x10, 4, .read⟩) State.reset).params ⟨0x10, 4, .read⟩ = none ∧
    ({ threeHosts with schedule := [.host 0] }).nextTurn = .host 0 ∧
    ({ threeHosts with schedule := [.host 0] }).hosts[0]? = some ⟨[.wait], [], true⟩ :=
  ⟨⟨rfl, rfl, rfl, rfl⟩, by decide, rfl, rfl⟩

/-- One witness for each clause of HostStatementsAccessTheirRegister. -/
theorem witness_HostStatements :
    NextStmt (hosted (.wr .src 5) State.reset) 0 ⟨[.wr .src 5], [], false⟩ (.wr .src 5) ∧
    NextStmt (hosted (.rd .status) State.reset) 0 ⟨[.rd .status], [], false⟩ (.rd .status) ∧
    NextStmt (hosted .wait State.reset) 0 ⟨[.wait], [], false⟩ .wait ∧
    NextStmt (hosted .wait (pending false 2 0 0 0 0)) 0 ⟨[.wait], [], false⟩ .wait ∧
    NextStmt (hosted (.bus ⟨0x20, 8, .write 5⟩) State.reset) 0 ⟨[.bus ⟨0x20, 8, .write 5⟩], [], false⟩
      (.bus ⟨0x20, 8, .write 5⟩) ∧
    NextStmt (hosted (.bus ⟨0xF8, 8, .read⟩) State.reset) 0 ⟨[.bus ⟨0xF8, 8, .read⟩], [], false⟩
      (.bus ⟨0xF8, 8, .read⟩) ∧
    NextStmt (hosted (.store 3 []) State.reset) 0 ⟨[.store 3 []], [], false⟩ (.store 3 []) ∧
    admitted State.reset.params ⟨0x20, 8, .write 5⟩ = some .src ∧
    admitted State.reset.params ⟨0xF8, 8, .read⟩ = some (.reserved 18) ∧
    State.reset.status.busy = false ∧ (pending false 2 0 0 0 0).status.busy = true :=
  ⟨⟨rfl, rfl, rfl, rfl⟩, ⟨rfl, rfl, rfl, rfl⟩, ⟨rfl, rfl, rfl, rfl⟩, ⟨rfl, rfl, rfl, rfl⟩, ⟨rfl, rfl, rfl, rfl⟩,
    ⟨rfl, rfl, rfl, rfl⟩, ⟨rfl, rfl, rfl, rfl⟩, by decide, by decide, rfl, rfl⟩

/-- RotationsAreRightRotations and ByteSwapsReverseTheBytes: the top of each range, with 95_test_vectors.md section 2.1. -/
theorem witness_Rotations_and_swaps :
    (31 < 32 ∧ 63 < 64 ∧ 3 < 4 ∧ 7 < 8) ∧ rotr64 0x0123456789abcdef 63 = 0x02468acf13579bde ∧
    rotr32 0x80000001 1 = 0xc0000000 ∧ (rotr32 0x80000001 31).getLsbD 31 = (0x80000001 : Word32).getLsbD 30 := by decide

/-- The four statements on fetches: two views with the same bytes and different surroundings. -/
theorem witness_FetchesStayInside :
    (⟨[1, 2], fun _ => 0⟩ : View).bytes = (⟨[1, 2], fun _ => 1⟩ : View).bytes ∧
    (⟨[1, 2], fun _ => 0⟩ : View).fetch32 0 ≠ (⟨[1, 2], fun _ => 1⟩ : View).fetch32 0 := by decide

/-- LoopsRunTheirChunksInOrder: the shortest view CityMurmur loops on. -/
theorem witness_Loops : 16 < (View.ofBytes (List.replicate 17 0)).len := by decide

/-- LengthSelectsTheRegime: `A(n)` has length `n`, so each clause is met at both ends of its range. -/
theorem witness_LengthSelectsTheRegime :
    [0, 1, 3, 4, 5, 7, 8, 12, 13, 15, 16, 17, 24, 25, 32, 33, 64, 65, 127, 128].all
      (fun n => (countingInput n).len == n && (onesInput n).len == n) = true := by decide +kernel

theorem witness_CrcPathAgrees :
    (open64 true 8 0x1000 900).params.hasCrc = true ∧ (open64 true 8 0x1000 900).latched.len.toNat ≤ 900 ∧
    (View.ofBytes []).len ≤ 900 ∧ Instr.fold128.usesCrc = false := by decide

theorem witness_EmptyWindow :
    (pending false 2 0x8000000 0 0 0).latched.src ≠ 0 ∧ (pending false 2 0x8000000 0 0 0).latched.len = 0 ∧
    (pending false 2 0x8000000 0 0 0).windowWritten = false ∧
    (pending false 2 0x8000000 0 0 0).latched.seed0 = 0 := by decide

theorem witness_OneByte : (View.ofBytes [0xFF]).bytes = [0xFF] := rfl

end Sys2Proof.Tests
end

section
/-! SUPPORT. STATUS, CTRL and CAP bit by bit (10_state.md R22 to R25), and what a STATUS write looks at. -/

namespace Sys2Proof.Machine

/-- STATUS as read, bit by bit (10_state.md R24). -/
theorem Status.word_getLsbD (st : Status) (i : Nat) :
    st.word.getLsbD i =
      if i = 0 then st.busy else if i = 1 then st.done else if i = 2 then st.ovr
      else decide (4 ≤ i) && st.cause.code.getLsbD (i - 4) := by
  simp only [Status.word, BitVec.getLsbD_setWidth, BitVec.getLsbD_append]
  match i with
  | 0 | 1 | 2 | 3 => simp
  | i + 4 =>
    have hfits : st.cause.code.getLsbD i = true → i + 4 < 64 := fun h => by
      have := BitVec.lt_of_getLsbD h
      omega
    simpa using hfits

theorem ctrlWord_getLsbD_zero (b : Bool) : (ctrlWord b).getLsbD 0 = b := by
  simp [ctrlWord]

/-- CTRL has nothing above IRQ_EN (10_state.md R33). -/
theorem ctrlWord_shift_one (b : Bool) : ctrlWord b >>> 1 = 0 := by
  cases b <;> decide

theorem capWord_eq_ite (p : Params) : capWord p = if p.hasCrc then 1 else 0 := by
  unfold capWord
  cases p.hasCrc <;> rfl

/-- CAP has nothing above HAS_CRC (10_state.md R33). -/
theorem capWord_shift_one (p : Params) : capWord p >>> 1 = 0 := by
  rw [capWord_eq_ite]
  cases p.hasCrc <;> decide

/-- A STATUS write looks at bits 1 and 2 of the written value only (10_state.md R25). -/
theorem Status.hostWrite_congr {v w : Word64} (h1 : w.getLsbD 1 = v.getLsbD 1) (h2 : w.getLsbD 2 = v.getLsbD 2)
    (st : Status) : st.hostWrite w = st.hostWrite v := by
  simp only [Status.hostWrite, h1, h2]

/-- Writing DONE = 1 when DONE is 0 has no effect (10_state.md R25). -/
theorem Status.hostWrite_done_of_clear {st : Status} (h : st.done = false) : st.hostWrite 0x2 = st := by
  obtain ⟨busy, done, ovr, cause⟩ := st
  obtain rfl : done = false := h
  simp [Status.hostWrite]

/-- The mask 6 has bits 1 and 2. -/
theorem getLsbD_six (i : Nat) : (0x6 : Word64).getLsbD i = (decide (i = 1) || decide (i = 2)) := by
  rw [show (0x6 : Word64) = BitVec.twoPow 64 1 ||| BitVec.twoPow 64 2 by decide]
  simp [BitVec.getLsbD_twoPow, eq_comm]

/-- A STATUS write clears the bits of STATUS that it has set among bits 1 and 2 (10_state.md R25). -/
theorem Status.hostWrite_word (v : Word64) (st : Status) :
    (st.hostWrite v).word = st.word &&& ~~~(v &&& 0x6) := by
  apply BitVec.eq_of_getLsbD_eq
  intro i hi
  simp only [BitVec.getLsbD_and, BitVec.getLsbD_not, hi, decide_true, Bool.true_and, getLsbD_six, Status.word_getLsbD,
    Status.hostWrite_busy, Status.hostWrite_done, Status.hostWrite_ovr, Status.hostWrite_cause]
  by_cases h1 : i = 1
  · subst h1; simp
  · by_cases h2 : i = 2
    · subst h2; simp
    · simp [h1, h2]

/-- Bits 3 and 63:8 of STATUS read 0 (10_state.md R24, R33). -/
theorem Status.word_reserved (st : Status) : st.word &&& 0xFFFFFFFFFFFFFF08 = 0 := by
  obtain ⟨b, d, o, c⟩ := st
  cases c <;> revert b d o <;> decide

end Sys2Proof.Machine
end

section
/-! SUPPORT. The turns as the registers see them: which step writes a register, what becomes of the phase, and what no step
changes (10_state.md R22, R37). -/

namespace Sys2Proof.Machine

/-- After a CMD write the block is BUSY, whether the command was accepted or dropped (10_state.md R37). -/
theorem offerCommand_status_busy (v : Word64) (s : State) : (offerCommand v s).status.busy = true := by
  cases h : s.status.busy with
  | false => rw [offerCommand_idle h]; rfl
  | true => rw [offerCommand_busy h]; exact h

/-- Only an acceptance sets BUSY (10_state.md R37). -/
theorem regWrite_of_busy_rise {r : Reg} {v : Word64} {s : State} (hs : s.status.busy = false)
    (ht : (regWrite r v s).status.busy = true) : r = .cmd ∧ regWrite r v s = accept v s := by
  cases r with
  | cmd => exact ⟨rfl, offerCommand_idle hs⟩
  | _ => simp [regWrite, hs] at ht

/-- What the block's turn does to the phase and the parameters (10_state.md R37). -/
theorem blockStep_next {s t : State} (h : blockStep s = .next t) :
    t.params = s.params ∧ t.status.busy = false ∧ (s.status.busy = true → t.status.done = true) := by
  rcases blockStep_cases s with ⟨hi, e⟩ | ⟨_, c, e | e, _⟩ <;> obtain rfl := Host.Outcome.next.inj (e.symm.trans h)
  · exact ⟨rfl, hi, by simp [hi]⟩
  · exact ⟨rfl, rfl, fun _ => rfl⟩
  · exact ⟨rfl, rfl, fun _ => rfl⟩

/-- A host agent's turn keeps the phase, unless its CMD write is accepted (10_state.md R37). -/
theorem hostTurn_phase {k : Nat} {s : State} (hn : s.nextTurn = .host k) :
    (hostStep k s.takeTurn).status.busy = s.status.busy ∨
    ∃ v, s.status.busy = false ∧ NextWrites s .cmd v ∧
      (hostStep k s.takeTurn).latched = ⟨v, s.src, s.len, s.seed0, s.seed1⟩ := by
  rcases hostTurn_cases hn with ⟨_, e⟩ | ⟨r, v, _, hw, e⟩ | ⟨_, _, _, _, _, _, _, e⟩ <;> rw [e]
  · exact .inl rfl
  · cases hb : s.status.busy with
    | true => exact .inl (regWrite_busy hb)
    | false =>
      cases ht : (regWrite r v s.takeTurn).status.busy with
      | false => exact .inl rfl
      | true =>
        obtain ⟨rfl, ha⟩ := regWrite_of_busy_rise (s := s.takeTurn) hb ht
        exact .inr ⟨v, rfl, hw, by rw [ha]; rfl⟩
  · exact .inl rfl

theorem hostTurn_params {k : Nat} {s : State} (hn : s.nextTurn = .host k) :
    (hostStep k s.takeTurn).params = s.params := by
  rcases hostTurn_cases hn with ⟨_, e⟩ | ⟨r, v, _, _, e⟩ | ⟨_, _, _, _, _, _, _, e⟩ <;> rw [e]
  · rfl
  · exact (regWrite_keeps r v s.takeTurn).1
  · rfl

/-- No step changes the parameters (00_scope.md R6, log 1). -/
theorem step_params {s t : State} (h : step s = .next t) : t.params = s.params := by
  rcases step_cases h with ⟨_, rfl⟩ | ⟨k, hn, rfl⟩ | ⟨_, hb⟩
  · rfl
  · exact hostTurn_params hn
  · exact (blockStep_next hb).1

/-- The step of an agent whose next access writes a register, by name or by system address. -/
theorem step_of_nextWrites {s : State} {r : Reg} {v : Word64} (h : NextWrites s r v) :
    ∃ k g, step s = .next ((regWrite r v s.takeTurn).setHost k g) := by
  obtain ⟨k, g, hs | ⟨a, hs, hr, hv⟩⟩ := h
  · exact ⟨k, _, step_of_nextStmt hs⟩
  · refine ⟨k, g.advance, ?_⟩
    rw [step_of_nextStmt hs]
    simp only [runStmt, hostBus, takeTurn_params, hr, hv, hostWrite]

end Sys2Proof.Machine
end

section
/-! PROOFS. The obligations of the family 10_state.md: O24, O26, O27, O29, O34, O37. -/

namespace Sys2Proof.Machine

/-- Settles O34: each kind of turn says what becomes of the phase. -/
theorem phaseChangesOnlyByAcceptanceCompletionReset : Obligations.PhaseChangesOnlyByAcceptanceCompletionReset := by
  intro s t h
  have hcmd : ∀ v : Word64, NextWrites s .cmd v → t.status.busy = true := by
    intro v hw
    obtain ⟨k, g, e⟩ := step_of_nextWrites hw
    obtain rfl := Host.Outcome.next.inj (e.symm.trans h)
    exact offerCommand_status_busy v s.takeTurn
  rcases step_cases h with ⟨hn, rfl⟩ | ⟨k, hn, rfl⟩ | ⟨hn, hb⟩
  · exact ⟨by simp, fun _ _ => .inr hn, by simp, by simp, hcmd⟩
  · refine ⟨fun hs ht => ?_, fun hs ht => ?_, by simp [hn], by simp [hn], hcmd⟩
    · rcases hostTurn_phase hn with hk | ⟨v, _, hw, hl⟩
      · simp [hk, hs] at ht
      · exact ⟨v, hw, hl⟩
    · rcases hostTurn_phase hn with hk | ⟨_, hi, _⟩
      · simp [hk, hs] at ht
      · simp [hi] at hs
  · obtain ⟨_, hidle, hdone⟩ := blockStep_next hb
    exact ⟨by simp [hidle], fun hs _ => .inl ⟨hn, hdone hs⟩, fun _ => hidle, fun _ => hidle, hcmd⟩

/-- Settles O37: CAP shows a parameter, and no step changes the parameters. -/
theorem capabilityNeverChanges : Obligations.CapabilityNeverChanges := by
  refine ⟨fun s => capWord_eq_ite s.params, fun _ _ => rfl, fun s t h => ?_⟩
  have hp : t.params = s.params := step_params h
  exact ⟨hp, congrArg capWord hp⟩

/-- Settles O24: a STATUS write looks at bits 1 and 2 of the value and clears those bits of STATUS. -/
theorem statusWriteClearsOnlyDoneAndOvr : Obligations.StatusWriteClearsOnlyDoneAndOvr := by
  intro v s
  refine ⟨Status.hostWrite_word v s.status, rfl, rfl, rfl, fun w hwv => ?_, fun hd => ?_⟩
  · have bit : ∀ i, (w &&& 0x6).getLsbD i = (v &&& 0x6).getLsbD i := fun i => by rw [hwv]
    have h1 : w.getLsbD 1 = v.getLsbD 1 := by simpa [getLsbD_six] using bit 1
    have h2 : w.getLsbD 2 = v.getLsbD 2 := by simpa [getLsbD_six] using bit 2
    simp only [regWrite, Status.hostWrite_congr h1 h2]
  · simp only [regWrite, Status.hostWrite_done_of_clear hd]

/-- Settles O26: the reserved bits of CAP, CTRL and STATUS are constant 0, and no write looks at them. -/
theorem reservedOffsetsAndFieldsReadZero : Obligations.ReservedOffsetsAndFieldsReadZero := by
  intro s v
  have hctrl : irqEnOfWrite v = irqEnOfWrite (v &&& 1) := by simp [irqEnOfWrite]
  have hstatus : s.status.hostWrite v = s.status.hostWrite (v &&& 0xF7) :=
    Status.hostWrite_congr (by simp) (by simp) s.status
  refine ⟨fun k => ⟨rfl, rfl, rfl⟩, ?_, rfl, ctrlWord_shift_one s.irqEn, ?_, Status.word_reserved s.status, ?_⟩
  · exact capWord_shift_one s.params
  · simp only [regWrite, ← hctrl]
  · simp only [regWrite, ← hstatus]

/-- Settles O27: each read-only register's write is the identity. -/
theorem readOnlyWritesAreIgnored : Obligations.ReadOnlyWritesAreIgnored :=
  fun _ _ => ⟨rfl, rfl, rfl, rfl, rfl, rfl⟩

/-- Settles O29: bit 1 of STATUS as read is DONE, bit 0 of CTRL as read is IRQ_EN. -/
theorem irqIsDoneAndEnable : Obligations.IrqIsDoneAndEnable := by
  intro s
  have hdone : (regRead .status s).getLsbD 1 = s.status.done := Status.word_getLsbD s.status 1
  have hen : (regRead .ctrl s).getLsbD 0 = s.irqEn := ctrlWord_getLsbD_zero s.irqEn
  rw [hdone, hen, State.irq]

end Sys2Proof.Machine
end

section
/-! SUPPORT. The command word as RSVD above OP, and the decoder against the encoder (30_encoding.md R81 to R83, R88). -/

namespace Sys2Proof

/-- Every command word is of format C, by the lemma of its command. -/
theorem formatC (i : Instr) : Laws.FormatC.Statement i :=
  match i with
  | .hash32 => Laws.FormatC.hash32
  | .hash64 => Laws.FormatC.hash64
  | .hash64Seed => Laws.FormatC.hash64Seed
  | .hash64Seeds => Laws.FormatC.hash64Seeds
  | .hash128 => Laws.FormatC.hash128
  | .hash128Seed => Laws.FormatC.hash128Seed
  | .fold128 => Laws.FormatC.fold128
  | .hashcrc128 => Laws.FormatC.hashcrc128
  | .hashcrc128Seed => Laws.FormatC.hashcrc128Seed
  | .hashcrc256 => Laws.FormatC.hashcrc256

@[simp] theorem rsvdField_encode (i : Instr) : rsvdField (encode i) = 0 := (formatC i).1
@[simp] theorem opField_encode (i : Instr) : opField (encode i) = i.op := (formatC i).2.1
@[simp] theorem instrOfOp_op (i : Instr) : instrOfOp i.op = some i := (formatC i).2.2

/-- A command word is its two fields, RSVD above OP (30_encoding.md R81). -/
theorem rsvdField_append_opField (v : Word64) : rsvdField v ++ opField v = v :=
  BitVec.extractLsb'_append_extractLsb'_eq_extractLsb' (by rfl) |>.trans BitVec.extractLsb'_eq_self

/-- The opcode map names a command for no other OP than its own (30_encoding.md R83). -/
theorem op_of_instrOfOp {op : Byte} {i : Instr} (h : instrOfOp op = some i) : op = i.op := by
  unfold instrOfOp at h
  split_ifs at h <;> cases h <;> assumption

/-- The decoder gives a command exactly for the encoder's word, where the command exists (30_encoding.md R82). -/
theorem decode_eq_command_iff {hasCrc : Bool} {v : Word64} {i : Instr} :
    decode hasCrc v = .command i ↔ i.wellFormed hasCrc = true ∧ v = encode i := by
  constructor
  · intro h
    unfold decode at h
    split_ifs at h with hr
    split at h
    · cases h
    · next j hj =>
      split_ifs at h with hw
      cases h
      have hop : opField v = i.op := op_of_instrOfOp hj
      refine ⟨hw, ?_⟩
      rw [← rsvdField_append_opField v, ← rsvdField_append_opField (encode i), rsvdField_encode, opField_encode, hop,
        not_not.mp hr]
  · rintro ⟨hw, rfl⟩
    simp [decode, hw]

/-- A word is ILLEGAL exactly when every command with that word is absent from the block. -/
theorem exists_decode_eq_illegal_iff {hasCrc : Bool} {v : Word64} :
    (∃ why, decode hasCrc v = .illegal why) ↔ ∀ i, v = encode i → i.wellFormed hasCrc = false := by
  constructor
  · rintro ⟨why, h⟩ i hv
    by_contra hw
    rw [decode_eq_command_iff.mpr ⟨by simpa using hw, hv⟩] at h
    cases h
  · intro h
    cases hd : decode hasCrc v with
    | illegal why => exact ⟨why, rfl⟩
    | command i =>
      obtain ⟨hw, hv⟩ := decode_eq_command_iff.mp hd
      simp [h i hv] at hw

/-- The command words are the numbers 1 to 10 (30_encoding.md R83). -/
theorem exists_eq_encode_iff {v : Word64} : (∃ i, v = encode i) ↔ 0 < v.toNat ∧ v.toNat ≤ 0x0A := by
  constructor
  · rintro ⟨i, rfl⟩
    cases i <;> decide
  · rintro ⟨hpos, hle⟩
    have word : ∀ n : Nat, 0 < n → n ≤ 0x0A → ∃ i, BitVec.ofNat 64 n = encode i := by
      intro n hn hn'
      interval_cases n
      exacts [⟨.hash32, rfl⟩, ⟨.hash64, rfl⟩, ⟨.hash64Seed, rfl⟩, ⟨.hash64Seeds, rfl⟩, ⟨.hash128, rfl⟩,
        ⟨.hash128Seed, rfl⟩, ⟨.fold128, rfl⟩, ⟨.hashcrc128, rfl⟩, ⟨.hashcrc128Seed, rfl⟩, ⟨.hashcrc256, rfl⟩]
    simpa using word v.toNat hpos hle

/-- The CRC commands are the ones with words from 0x08 up (30_encoding.md R83). -/
theorem usesCrc_iff {i : Instr} : i.usesCrc = true ↔ 0x08 ≤ (encode i).toNat := by
  cases i <;> decide

/-- A command is absent exactly when it is one of the CRC path and `HAS_CRC` = 0 (45_crc.md R230). -/
theorem wellFormed_eq_false_iff {hasCrc : Bool} {i : Instr} :
    i.wellFormed hasCrc = false ↔ 0x08 ≤ (encode i).toNat ∧ hasCrc = false := by
  simp [Instr.wellFormed, usesCrc_iff]

/-- The ILLEGAL words by number (30_encoding.md R82, R88). -/
theorem exists_decode_eq_illegal_iff_toNat {hasCrc : Bool} {v : Word64} :
    (∃ why, decode hasCrc v = .illegal why) ↔
      v = 0 ∨ 0x0B ≤ v.toNat ∨ (0x08 ≤ v.toNat ∧ v.toNat ≤ 0x0A ∧ hasCrc = false) := by
  have hzero : v = 0 ↔ v.toNat = 0 := BitVec.toNat_inj.symm
  rw [exists_decode_eq_illegal_iff, hzero]
  constructor
  · intro h
    by_cases hv : 0 < v.toNat ∧ v.toNat ≤ 0x0A
    · obtain ⟨i, rfl⟩ := exists_eq_encode_iff.mpr hv
      obtain ⟨hcrc, hno⟩ := wellFormed_eq_false_iff.mp (h i rfl)
      exact .inr (.inr ⟨hcrc, hv.2, hno⟩)
    · omega
  · rintro h i rfl
    obtain ⟨hpos, hle⟩ := exists_eq_encode_iff.mp ⟨i, rfl⟩
    obtain h0 | hbig | ⟨hcrc, _, hno⟩ := h
    · omega
    · omega
    · exact wellFormed_eq_false_iff.mpr ⟨hcrc, hno⟩

end Sys2Proof

namespace Sys2Proof.Machine

/-- On the block's turn the step is the completion step. -/
theorem step_of_block {s : State} (hn : s.nextTurn = .block) : step s = blockStep s.takeTurn := by
  rw [step, hn, runTurn]

/-- An ILLEGAL word completes ILLEGAL_OP (60_exceptions.md R263). -/
theorem blockStep_of_illegal {s : State} {why : Illegal} (hb : s.status.busy = true)
    (hd : decode s.params.hasCrc s.latched.op = .illegal why) : blockStep s = .next (complete .illegalOp s) := by
  simp only [blockStep, hb, if_true, State.command, hd]

end Sys2Proof.Machine
end

section
/-! PROOFS. The obligation of the family 30_encoding.md: O1. -/

namespace Sys2Proof.Machine

/-- Settles O1: a command is decoded exactly from its encoder's word, the ILLEGAL words are known by number, and the
completion step of one is the ILLEGAL_OP record. -/
theorem decodeIsTheOpcodeMap : Obligations.DecodeIsTheOpcodeMap := by
  refine ⟨fun hasCrc v => ?_, fun s why hn hb hd => ?_⟩
  · have free : ∀ i : Instr, i.usesCrc = false → (decode hasCrc v = .command i ↔ v = encode i) := by
      intro i hi
      simp [decode_eq_command_iff, Instr.wellFormed, hi]
    have crc : ∀ i : Instr, i.usesCrc = true →
        (decode hasCrc v = .command i ↔ v = encode i ∧ hasCrc = true) := by
      intro i hi
      simp [decode_eq_command_iff, Instr.wellFormed, hi, and_comm]
    exact ⟨free .hash32 rfl, free .hash64 rfl, free .hash64Seed rfl, free .hash64Seeds rfl, free .hash128 rfl,
      free .hash128Seed rfl, free .fold128 rfl, crc .hashcrc128 rfl, crc .hashcrc128Seed rfl, crc .hashcrc256 rfl,
      exists_decode_eq_illegal_iff_toNat⟩
  · rw [step_of_block hn, blockStep_of_illegal (s := s.takeTurn) hb hd, complete_eq_recordOf]
    rfl

end Sys2Proof.Machine
end

section
/-! SUPPORT. The bytes of a word written as a concatenation of bytes, lowest byte last (40_primitives.md R106, R107). -/

namespace Sys2Proof.Machine

/-- The lowest byte of a concatenation is the last byte appended. -/
@[simp] theorem extractLsb'_zero_append_byte {n : Nat} (x : BitVec n) (b : Byte) : (x ++ b).extractLsb' 0 8 = b := by
  rw [BitVec.extractLsb'_append_eq_of_add_le (by rfl), BitVec.extractLsb'_eq_self]

/-- The bytes above the last byte appended are those of the rest. -/
@[simp] theorem extractLsb'_add_append_byte {n : Nat} (x : BitVec n) (b : Byte) (k : Nat) :
    (x ++ b).extractLsb' (k + 8) 8 = x.extractLsb' k 8 := by
  rw [BitVec.extractLsb'_append_eq_of_le (Nat.le_add_left 8 k), Nat.add_sub_cancel]

/-- `bswap32` exchanges byte `i` and byte `3 - i` (R106): the case of each `i` drops the `i` bytes appended last. -/
theorem bswap32_byte (v : Word32) {i : Nat} (hi : i < 4) :
    (bswap32 v).extractLsb' (8 * i) 8 = v.extractLsb' (24 - 8 * i) 8 := by
  unfold bswap32
  interval_cases i <;> simp

/-- `bswap64` exchanges byte `i` and byte `7 - i` (R107). -/
theorem bswap64_byte (v : Word64) {i : Nat} (hi : i < 8) :
    (bswap64 v).extractLsb' (8 * i) 8 = v.extractLsb' (56 - 8 * i) 8 := by
  unfold bswap64
  interval_cases i <;> simp

end Sys2Proof.Machine
end

section
/-! PROOFS. The obligation of the family 40_primitives.md: O46. -/

namespace Sys2Proof.Machine

/-- Settles O46: the byte rule of each swap, and the two examples by evaluation. -/
theorem byteSwapsReverseTheBytes : Obligations.ByteSwapsReverseTheBytes :=
  ⟨fun v _ hi => bswap32_byte v hi, fun v _ hi => bswap64_byte v hi, by decide, by decide⟩

end Sys2Proof.Machine
end

section
/-! SUPPORT. Which regime the length selects, one equation per range: the 32-bit hash (41_hash32.md R141), the 64-bit hash
(42_hash64.md R160, R161) and the 128-bit hash (43_hash128.md R191, R192, R194). -/

namespace Sys2Proof.Machine

variable {s : View}

theorem cityHash32_of_len_le_4 (h : s.len ≤ 4) : cityHash32 s = hash32Len0to4 s := by
  rw [cityHash32, if_pos h]

theorem cityHash32_of_len_5_to_12 (lo : 5 ≤ s.len) (hi : s.len ≤ 12) : cityHash32 s = hash32Len5to12 s := by
  rw [cityHash32, if_neg (by omega), if_pos hi]

theorem cityHash32_of_len_13_to_24 (lo : 13 ≤ s.len) (hi : s.len ≤ 24) : cityHash32 s = hash32Len13to24 s := by
  rw [cityHash32, if_neg (by omega), if_neg (by omega), if_pos hi]

theorem cityHash32_of_25_le_len (lo : 25 ≤ s.len) : cityHash32 s = hash32Long s := by
  rw [cityHash32, if_neg (by omega), if_neg (by omega), if_neg (by omega)]

theorem cityHash64_of_len_le_16 (hi : s.len ≤ 16) : cityHash64 s = hashLen0to16 s := by
  rw [cityHash64, if_pos hi]

theorem cityHash64_of_len_17_to_32 (lo : 17 ≤ s.len) (hi : s.len ≤ 32) : cityHash64 s = hashLen17to32 s := by
  rw [cityHash64, if_neg (by omega), if_pos hi]

theorem cityHash64_of_len_33_to_64 (lo : 33 ≤ s.len) (hi : s.len ≤ 64) : cityHash64 s = hashLen33to64 s := by
  rw [cityHash64, if_neg (by omega), if_neg (by omega), if_pos hi]

theorem cityHash64_of_65_le_len (lo : 65 ≤ s.len) : cityHash64 s = hash64Long s := by
  rw [cityHash64, if_neg (by omega), if_neg (by omega), if_neg (by omega)]

theorem hashLen0to16_of_len_eq_0 (h : s.len = 0) : hashLen0to16 s = k2 := by
  rw [hashLen0to16, if_neg (by omega), if_neg (by omega), if_neg (by omega)]

theorem hashLen0to16_of_len_1_to_3 (lo : 1 ≤ s.len) (hi : s.len ≤ 3) :
    hashLen0to16 s =
      shiftMix
        ((((s.byte 0).setWidth 32 + ((s.byte (s.len >>> 1)).setWidth 32 <<< 8) : Word32).setWidth 64 * k2) ^^^
          ((s.n32 + ((s.byte (s.len - 1)).setWidth 32 <<< 2)).setWidth 64 * k0)) * k2 := by
  rw [hashLen0to16, if_neg (by omega), if_neg (by omega), if_pos (by omega)]

theorem hashLen0to16_of_len_4_to_7 (lo : 4 ≤ s.len) (hi : s.len ≤ 7) :
    hashLen0to16 s =
      hashLen16m (s.len64 + ((s.fetch32 0).setWidth 64 <<< 3)) ((s.fetch32 (s.len - 4)).setWidth 64)
        (mulLen s.len64) := by
  rw [hashLen0to16, if_neg (by omega), if_pos lo]

theorem hashLen0to16_of_8_le_len (lo : 8 ≤ s.len) :
    hashLen0to16 s =
      hashLen16m (rotr64 (s.fetch64 (s.len - 8)) 37 * mulLen s.len64 + (s.fetch64 0 + k2))
        ((rotr64 (s.fetch64 0 + k2) 25 + s.fetch64 (s.len - 8)) * mulLen s.len64) (mulLen s.len64) := by
  rw [hashLen0to16, if_pos lo]

theorem cityMurmur_of_len_le_16 (hi : s.len ≤ 16) (seed : Pair) :
    cityMurmur s seed = murmurFinish (murmurShort s seed) := by
  rw [cityMurmur, if_pos hi]

theorem cityHash128WithSeed_of_len_le_127 (hi : s.len ≤ 127) (seed : Pair) :
    cityHash128WithSeed s seed = cityMurmur s seed := by
  rw [cityHash128WithSeed, if_pos (by omega)]

theorem cityHash128WithSeed_of_128_le_len (lo : 128 ≤ s.len) (seed : Pair) :
    cityHash128WithSeed s seed = hash128Long s seed := by
  rw [cityHash128WithSeed, if_neg (by omega)]

theorem cityHash128_of_len_le_15 (hi : s.len ≤ 15) : cityHash128 s = cityHash128WithSeed s ⟨k0, k1⟩ := by
  rw [cityHash128, if_neg (by omega)]

theorem cityHash128_of_16_le_len (lo : 16 ≤ s.len) :
    cityHash128 s = cityHash128WithSeed (s.drop 16) ⟨s.fetch64 0, s.fetch64 8 + k0⟩ := by
  rw [cityHash128, if_pos lo]

end Sys2Proof.Machine
end

section
/-! PROOFS. The obligation of the family 41_hash32.md: O58. -/

namespace Sys2Proof.Machine

/-- Settles O58: one clause per range of lengths, each from the dispatch equation of its hash; a regime's closed form is its
definition. -/
theorem lengthSelectsTheRegime : Obligations.LengthSelectsTheRegime := by
  intro s seed
  refine ⟨?len0to4, ?len5to12, ?len13to24, ?long32, ?len0, ?len1to3, ?len4to7, ?len8to16, ?len17to32, ?len33to64,
    ?long64, ?murmurShort, ?murmur, ?long128, ?constantSeed, ?seedFromTheView⟩
  case len0to4 => exact fun hi => cityHash32_of_len_le_4 hi
  case len5to12 => exact fun lo hi => cityHash32_of_len_5_to_12 lo hi
  case len13to24 => exact fun lo hi => cityHash32_of_len_13_to_24 lo hi
  case long32 => exact cityHash32_of_25_le_len
  case len0 => exact fun h => (cityHash64_of_len_le_16 (by omega)).trans (hashLen0to16_of_len_eq_0 h)
  case len1to3 => exact fun lo hi => (cityHash64_of_len_le_16 (by omega)).trans (hashLen0to16_of_len_1_to_3 lo hi)
  case len4to7 => exact fun lo hi => (cityHash64_of_len_le_16 (by omega)).trans (hashLen0to16_of_len_4_to_7 lo hi)
  case len8to16 => exact fun lo hi => (cityHash64_of_len_le_16 hi).trans (hashLen0to16_of_8_le_len lo)
  case len17to32 => exact fun lo hi => cityHash64_of_len_17_to_32 lo hi
  case len33to64 => exact fun lo hi => cityHash64_of_len_33_to_64 lo hi
  case long64 => exact cityHash64_of_65_le_len
  case murmurShort =>
    exact fun hi => (cityHash128WithSeed_of_len_le_127 (by omega) seed).trans (cityMurmur_of_len_le_16 hi seed)
  case murmur => exact fun hi => cityHash128WithSeed_of_len_le_127 hi seed
  case long128 => exact fun lo => cityHash128WithSeed_of_128_le_len lo seed
  case constantSeed => exact cityHash128_of_len_le_15
  case seedFromTheView => exact cityHash128_of_16_le_len

end Sys2Proof.Machine
end

section
/-! SUPPORT. The fold's corner cases (40_primitives.md R114), the command FOLD128 as a completion record (44_fold128.md R221),
and the reserved field of a command word (30_encoding.md R81, R88). -/

namespace Sys2Proof

/-- The reserved field of the encoder's word is zero. -/
theorem encode_ushiftRight_eight (i : Instr) : encode i >>> 8 = 0 := by cases i <;> decide

/-- A word with a nonzero reserved field is no command's word (R88). -/
theorem decode_ne_command_of_reserved {hasCrc : Bool} {v : Word64} (h : v >>> 8 ≠ 0) (i : Instr) :
    decode hasCrc v ≠ .command i := by
  intro hd
  obtain ⟨_, rfl⟩ := decode_eq_command_iff.mp hd
  exact h (encode_ushiftRight_eight i)

end Sys2Proof

namespace Sys2Proof.Machine

/-- Equal halves cancel in the fold's first mix, so only its second one acts. -/
theorem hash128to64_self (x : Word64) :
    hash128to64 ⟨x, x⟩ = ((x * kMul) ^^^ ((x * kMul) >>> 47)) * kMul := by
  simp [hash128to64]

theorem hash128to64_zero : hash128to64 ⟨0, 0⟩ = 0 := by simp [hash128to64_self]

/-- FOLD128 completes OK with the fold of the latched seeds: neither the window nor memory has a part in it (R221). -/
theorem exec_fold128 (s : State) :
    exec .fold128 s = .next (recordOf .ok ⟨fold128to64 ⟨s.latched.seed0, s.latched.seed1⟩, 0, 0, 0⟩ 0 s) := by
  rw [exec, execFold128, complete_eq_recordOf]
  rfl

end Sys2Proof.Machine
end

section
/-! PROOFS. The obligation of the family 44_fold128.md: O11. -/

namespace Sys2Proof.Machine

/-- Settles O11: the command's completion record, whose result `r` is the fold's last product; the corner cases are the
fold's own, and the worked example is by evaluation. -/
theorem fold128CompletesInEveryState : Obligations.Fold128CompletesInEveryState := by
  refine ⟨?word, ?reserved, ?record, ?zeros, ?equalHalves, ?workedExample⟩
  case word => decide
  case reserved => exact fun _ _ hv => decode_ne_command_of_reserved hv .fold128
  case record => exact fun s => ⟨_, _, _, rfl, rfl, rfl, exec_fold128 s⟩
  case zeros => exact hash128to64_zero
  case equalHalves => exact hash128to64_self
  case workedExample => decide

end Sys2Proof.Machine
end

section
/-! SUPPORT. The window check in the rule's terms, one equivalence per answer, and the completion it gives a command that
reads memory (60_exceptions.md R264, R268, R270). -/

namespace Sys2Proof.Machine

/-- The lowest unreadable address of the range by its offset in the window, as R264 counts. -/
theorem firstUnreadable_eq_some_iff_offset {p : Params} {a n x : Nat} :
    firstUnreadable p a n = some x ↔
      (∃ i, i < n ∧ x = a + i) ∧ isReadable p x = false ∧ ∀ j, j < n → a + j < x → isReadable p (a + j) = true := by
  rw [firstUnreadable_eq_some]
  constructor
  · rintro ⟨hlo, hhi, hx, hbelow⟩
    exact ⟨⟨x - a, by omega, by omega⟩, hx, fun j _ hj => hbelow (a + j) (by omega) hj⟩
  · rintro ⟨⟨i, hi, rfl⟩, hx, hbelow⟩
    refine ⟨by omega, by omega, hx, fun y hy hyx => ?_⟩
    obtain ⟨j, rfl⟩ := Nat.exists_eq_add_of_le hy
    exact hbelow j (by omega) hyx

theorem checkWindow_eq_absent_iff {p : Params} {l : Latched} : checkWindow p l = some .absent ↔ l.src = 0 := by
  rcases checkWindow_cases p l with ⟨h0, hc⟩ | ⟨h0, _, _, hc⟩ | ⟨h0, _, _, _, hc⟩ | ⟨h0, _, _, hc⟩
  · exact iff_of_true hc h0
  all_goals exact iff_of_false (by simp [hc]) h0

theorem checkWindow_eq_range_iff {p : Params} {l : Latched} :
    checkWindow p l = some .range ↔ l.src ≠ 0 ∧ 0 < l.len.toNat ∧ 2 ^ 64 < l.src.toNat + l.len.toNat := by
  rcases checkWindow_cases p l with ⟨h0, hc⟩ | ⟨h0, hlen, hsum, hc⟩ | ⟨_, hfits, _, _, hc⟩ | ⟨_, hfits, _, hc⟩
  · simp [hc, h0]
  · exact iff_of_true hc ⟨h0, hlen, hsum⟩
  · exact iff_of_false (by simp [hc]) (by omega)
  · exact iff_of_false (by simp [hc]) (by omega)

theorem checkWindow_eq_busFault_iff {p : Params} {l : Latched} {a : Word64} :
    checkWindow p l = some (.busFault a) ↔
      l.src ≠ 0 ∧ (0 < l.len.toNat → l.src.toNat + l.len.toNat ≤ 2 ^ 64) ∧
      firstUnreadable p l.src.toNat l.len.toNat = some a.toNat := by
  rcases checkWindow_cases p l with ⟨h0, hc⟩ | ⟨_, hlen, hsum, hc⟩ | ⟨h0, hfits, x, hx, hc⟩ | ⟨_, _, hnone, hc⟩
  · simp [hc, h0]
  · exact iff_of_false (by simp [hc]) (by omega)
  · obtain ⟨_, hhi, _⟩ := firstUnreadable_eq_some.mp hx
    have hword : BitVec.ofNat 64 x = a ↔ x = a.toNat := by
      rw [← BitVec.toNat_inj, BitVec.toNat_ofNat, Nat.mod_eq_of_lt (by omega)]
    rw [hc, hx, Option.some.injEq, Option.some.injEq, Completion.busFault.injEq, hword]
    exact ⟨fun e => ⟨h0, fun _ => hfits, e⟩, fun ⟨_, _, e⟩ => e⟩
  · simp [hc, hnone]

theorem checkWindow_eq_none_iff {p : Params} {l : Latched} :
    checkWindow p l = none ↔
      l.src ≠ 0 ∧ (0 < l.len.toNat → l.src.toNat + l.len.toNat ≤ 2 ^ 64) ∧
      firstUnreadable p l.src.toNat l.len.toNat = none := by
  rcases checkWindow_cases p l with ⟨h0, hc⟩ | ⟨_, hlen, hsum, hc⟩ | ⟨_, _, _, hx, hc⟩ | ⟨h0, hfits, hnone, hc⟩
  · simp [hc, h0]
  · exact iff_of_false (by simp [hc]) (by omega)
  · simp [hc, hx]
  · exact iff_of_true hc ⟨h0, fun _ => hfits, hnone⟩

/-- What the check raises is never OK and has zero results (60_exceptions.md R270). -/
theorem checkWindow_raises {p : Params} {l : Latched} {c : Completion} (h : checkWindow p l = some c) :
    c.cause ≠ .ok ∧ c.results = Quad.zero := by
  rcases checkWindow_cases p l with ⟨_, hc⟩ | ⟨_, _, _, hc⟩ | ⟨_, _, _, _, hc⟩ | ⟨_, _, _, hc⟩ <;>
    cases hc.symm.trans h <;> exact ⟨nofun, rfl⟩

/-- A command that reads the window completes with the cause the check raises (60_exceptions.md R264). -/
theorem runOnWindow_of_checkWindow (f : View → Quad) {s : State} {c : Completion} (hw : s.windowWritten = false)
    (h : checkWindow s.params s.latched = some c) :
    runOnWindow f s = .next (recordOf c.cause Quad.zero c.faultAddr s) := by
  obtain ⟨hcause, hzero⟩ := checkWindow_raises h
  have hc : windowCompletion f s = c := by simp only [windowCompletion, h]
  have hd : resultsAreDrawn c s = false := by simp [resultsAreDrawn, hw, hcause]
  simp only [runOnWindow, hc, hd, Bool.false_eq_true, if_false, complete_eq_recordOf, hzero]

end Sys2Proof.Machine
end

section
/-! SUPPORT. The fields of an ILLEGAL word (60_exceptions.md R263), and what a step does to OVR (R267). -/

namespace Sys2Proof

/-- The encoder's word is its own OP field. -/
theorem encode_and_op_mask (i : Instr) : encode i &&& 0xFF = encode i := by cases i <;> decide

/-- A nonzero reserved field, a reserved OP or a CRC OP on a block without `HAS_CRC` makes a word ILLEGAL (R82, R88). -/
theorem exists_decode_eq_illegal_of_fields {hasCrc : Bool} {v : Word64}
    (h : v >>> 8 ≠ 0 ∨ v &&& 0xFF = 0 ∨ 0x0B ≤ (v &&& 0xFF).toNat ∨ (0x08 ≤ (v &&& 0xFF).toNat ∧ hasCrc = false)) :
    ∃ why, decode hasCrc v = .illegal why := by
  rw [exists_decode_eq_illegal_iff]
  rintro i rfl
  obtain ⟨hpos, hle⟩ := exists_eq_encode_iff.mp ⟨i, rfl⟩
  rw [encode_and_op_mask] at h
  obtain hrsvd | hzero | hbig | hcrc := h
  · exact absurd (encode_ushiftRight_eight i) hrsvd
  · simp [hzero] at hpos
  · omega
  · exact wellFormed_eq_false_iff.mpr hcrc

end Sys2Proof

namespace Sys2Proof.Machine

/-- A register write clears OVR only at STATUS and with bit 2 set (10_state.md R25). -/
theorem regWrite_of_ovr_fall {r : Reg} {v : Word64} {s : State} (hs : s.status.ovr = true)
    (ht : (regWrite r v s).status.ovr = false) : r = .status ∧ v.getLsbD 2 = true := by
  cases r with
  | status => exact ⟨rfl, by simpa [regWrite, hs] using ht⟩
  | cmd =>
    cases hb : s.status.busy with
    | false => simp [regWrite, offerCommand_idle hb, hs] at ht
    | true => simp [regWrite, offerCommand_busy hb] at ht
  | _ => simp [regWrite, hs] at ht

/-- The block's turn keeps OVR (60_exceptions.md R270). -/
theorem blockStep_ovr {s t : State} (h : blockStep s = .next t) : t.status.ovr = s.status.ovr := by
  rcases blockStep_cases s with ⟨_, e⟩ | ⟨_, c, e | e, _⟩ <;> obtain rfl := Host.Outcome.next.inj (e.symm.trans h) <;> rfl

/-- A host agent's turn clears OVR only by a write to STATUS with bit 2 set (60_exceptions.md R267). -/
theorem hostTurn_of_ovr_fall {k : Nat} {s : State} (hn : s.nextTurn = .host k) (hs : s.status.ovr = true)
    (ht : (hostStep k s.takeTurn).status.ovr = false) : ∃ v, v.getLsbD 2 = true ∧ NextWrites s .status v := by
  rcases hostTurn_cases hn with ⟨_, e⟩ | ⟨r, v, _, hw, e⟩ | ⟨_, _, _, _, _, _, _, e⟩ <;> rw [e] at ht
  · simp [hs] at ht
  · obtain ⟨rfl, hv⟩ := regWrite_of_ovr_fall (s := s.takeTurn) hs ht
    exact ⟨v, hv, hw⟩
  · simp [hs] at ht

end Sys2Proof.Machine
end

section
/-! PROOFS. The obligations of the family 60_exceptions.md: O5, O14, O22, O23. -/

namespace Sys2Proof.Machine

/-- Settles O5: each reason makes the latched word ILLEGAL, and O1 says how an ILLEGAL word completes. -/
theorem illegalWordCompletesIllegalOp : Obligations.IllegalWordCompletesIllegalOp := by
  intro s hn hb hfields
  obtain ⟨_, illegalCompletes⟩ := decodeIsTheOpcodeMap
  obtain ⟨why, hd⟩ := exists_decode_eq_illegal_of_fields hfields
  exact illegalCompletes s why hn hb hd

/-- Settles O14: one equivalence per answer of the check, and a command that reads memory runs on its window. -/
theorem windowCheckRaisesTheFirstCause : Obligations.WindowCheckRaisesTheFirstCause := by
  refine ⟨fun p l => ⟨checkWindow_eq_absent_iff, checkWindow_eq_range_iff, fun a => ?busFault, ?none⟩, ?command⟩
  case busFault => rw [checkWindow_eq_busFault_iff, firstUnreadable_eq_some_iff_offset]
  case none => rw [checkWindow_eq_none_iff, firstUnreadable_eq_none]
  case command =>
    intro i s c hr hwf hw hc
    obtain ⟨f, hf⟩ := exec_of_readsWindow hr hwf
    rw [hf s rfl rfl rfl]
    exact runOnWindow_of_checkWindow f hw hc

/-- Settles O23: of the turns, only a reset and a host's STATUS write with bit 2 set clear OVR. -/
theorem commandWhileBusyIsDropped : Obligations.CommandWhileBusyIsDropped := by
  refine ⟨fun v s hb => offerCommand_busy hb, fun s t h hs ht => ?_⟩
  rcases step_cases h with ⟨hn, _⟩ | ⟨k, hn, rfl⟩ | ⟨_, hb⟩
  · exact .inl hn
  · exact .inr (hostTurn_of_ovr_fall hn hs ht)
  · have hkept : t.status.ovr = s.takeTurn.status.ovr := blockStep_ovr hb
    simp [hkept, hs] at ht

/-- Settles O22: while IDLE the CMD write is an acceptance, which does not look at the word. -/
theorem acceptanceLatchesTheOperands : Obligations.AcceptanceLatchesTheOperands := by
  intro v s hidle
  have haccept : regWrite .cmd v s = accept v s := offerCommand_idle hidle
  rw [haccept]
  exact ⟨rfl, rfl, fun why hd => blockStep_of_illegal (s := accept v s) rfl hd⟩

end Sys2Proof.Machine
end

section
/-! SUPPORT. The reset turn (70_reset_and_hazards.md R300, R301): the step it is, and the registers after it. -/

namespace Sys2Proof.Machine

/-- On a reset turn the step is the reset. -/
theorem step_of_reset {s : State} (hn : s.nextTurn = .reset) : step s = .next (resetBlock s.takeTurn) := by
  rw [step, hn, runTurn]

/-- While IDLE the block takes no step (60_exceptions.md R280). -/
theorem blockStep_of_idle {s : State} (hidle : s.status.busy = false) : blockStep s = .next s := by
  simp [blockStep, hidle]

@[simp] theorem Status.reset_word : Status.reset.word = 0 := by decide

@[simp] theorem ctrlWord_false : ctrlWord false = 0 := by decide

/-- Every register but CAP reads 0 after a reset (10_state.md R43). -/
theorem registerWindow_resetBlock (s : State) :
    registerWindow (resetBlock s) = [if s.params.hasCrc then 1 else 0, 0, 0, 0, 0, 0, 0, 0, 0, 0, 0, 0, 0] := by
  simp [registerWindow, regRead, capWord_eq_ite, Quad.zero]

end Sys2Proof.Machine
end

section
/-! PROOFS. The obligation of the family 70_reset_and_hazards.md: O31. -/

namespace Sys2Proof.Machine

/-- Settles O31: the reset turn's step is `resetBlock`, which leaves the block IDLE, and no case of a register write ends a
command or writes a result. -/
theorem resetStepRestoresTheRegisters : Obligations.ResetStepRestoresTheRegisters := by
  refine ⟨fun s hn => ?reset, fun r v s => ?write⟩
  case reset =>
    have hidle : (resetBlock s.takeTurn).status.busy = false := rfl
    exact ⟨resetBlock s.takeTurn, step_of_reset hn, registerWindow_resetBlock s.takeTurn, hidle, rfl,
      blockStep_of_idle hidle, rfl, rfl, rfl⟩
  case write =>
    obtain ⟨-, hres, hfault, -⟩ := regWrite_keeps r v s
    exact ⟨regWrite_busy, hres, hfault⟩

end Sys2Proof.Machine
end

section
/-! SUPPORT. What each operation and each kind of turn does to the fields the invariant speaks of (10_state.md R24, R32;
60_exceptions.md R264, R270). -/

namespace Sys2Proof.Machine

/-- The invariant speaks of four fields only. -/
theorem Inv.congr {s t : State} (hs : Inv s) (hmem : t.mem = s.mem) (hstatus : t.status = s.status)
    (hfault : t.faultAddr = s.faultAddr) (hparams : t.params = s.params) : Inv t := by
  obtain ⟨mem, busyClear, faultClear, faultAddress⟩ := hs
  constructor
  · rwa [hmem]
  · rwa [hstatus]
  · rwa [hstatus, hfault]
  · rwa [hstatus, hfault, hparams]

/-- A completion establishes the FAULT_ADDR clauses, whatever they were before, if its bus fault names a real address
(60_exceptions.md R264, R270). -/
theorem Inv.of_completion {s t : State} {c : Completion} (hs : Inv s)
    (haddr : ∀ a, c = .busFault a → a ≠ 0 ∧ isReadable s.params a.toNat = false) (hmem : t.mem = s.mem)
    (hstatus : t.status = s.status.completed c.cause) (hfault : t.faultAddr = c.faultAddr)
    (hparams : t.params = s.params) : Inv t := by
  constructor
  · rw [hmem]; exact hs.mem
  · simp [hstatus]
  · rw [hstatus, hfault]
    cases c <;> simp [Completion.cause, Completion.faultAddr]
  · rw [hstatus, hfault, hparams]
    cases c with
    | busFault a => exact fun _ _ => haddr a rfl
    | _ => simp [Completion.cause]

/-- An acceptance clears DONE and CAUSE; no other register write sets DONE or touches CAUSE or FAULT_ADDR. -/
theorem inv_regWrite {s : State} (hs : Inv s) (r : Reg) (v : Word64) : Inv (regWrite r v s) := by
  cases r with
  | status =>
    have hclear : s.status.busy = true → (s.status.hostWrite v).done = false ∧ s.status.cause = .ok := fun hb => by
      simp [hs.busyClear hb]
    exact ⟨hs.mem, hclear, hs.faultClear, hs.faultAddress⟩
  | cmd =>
    cases hb : s.status.busy with
    | false =>
      rw [regWrite, offerCommand_idle hb]
      exact ⟨hs.mem, fun _ => ⟨rfl, rfl⟩, by simp, by simp⟩
    | true =>
      rw [regWrite, offerCommand_busy hb]
      exact ⟨hs.mem, hs.busyClear, hs.faultClear, hs.faultAddress⟩
  | cap | res0 | res1 | res2 | res3 | faultAddr | reserved => exact hs
  | ctrl | src | len | seed0 | seed1 => exact hs.congr rfl rfl rfl rfl

/-- A byte stored inside the address space keeps the memory's canonical form. -/
theorem inv_storeByte {s : State} (hs : Inv s) {a : Nat} (ha : a < 2 ^ 64) (b : Byte) : Inv (storeByte a b s) :=
  ⟨Memory.wf_write hs.mem ha, hs.busyClear, hs.faultClear, hs.faultAddress⟩

theorem inv_resetBlock {s : State} (hs : Inv s) : Inv (resetBlock s) :=
  ⟨hs.mem, by simp, fun _ _ => rfl, by simp⟩

theorem inv_hostTurn {s : State} (hs : Inv s) {k : Nat} (hn : s.nextTurn = .host k) : Inv (hostStep k s.takeTurn) := by
  have hs' : Inv s.takeTurn := hs.congr rfl rfl rfl rfl
  rcases hostTurn_cases hn with ⟨_, e⟩ | ⟨r, v, _, _, e⟩ | ⟨_, a, b, _, _, ha, _, e⟩ <;> rw [e]
  · exact hs'.congr rfl rfl rfl rfl
  · exact (inv_regWrite hs' r v).congr rfl rfl rfl rfl
  · exact (inv_storeByte hs' ha b).congr rfl rfl rfl rfl

theorem inv_blockStep {s t : State} (hs : Inv s) (h : blockStep s = .next t) : Inv t := by
  rcases blockStep_cases s with ⟨_, e⟩ | ⟨_, c, e | e, haddr⟩ <;> obtain rfl := Host.Outcome.next.inj (e.symm.trans h)
  · exact hs
  · exact hs.of_completion haddr rfl rfl rfl rfl
  · exact hs.of_completion haddr rfl rfl rfl rfl

end Sys2Proof.Machine
end

section
/-! PROOFS. The tier 3 obligations of the family other: O2, O33. -/

namespace Sys2Proof.Machine

/-- Settles O2: the decoder gives a command exactly for the encoder's word. -/
theorem decodeAndEncodeAgree : Obligations.DecodeAndEncodeAgree := fun _ _ _ => decode_eq_command_iff

/-- Settles O33: the invariant is kept by each of the three kinds of turn. -/
theorem everyStepKeepsTheInvariant : Obligations.EveryStepKeepsTheInvariant := by
  intro s t hs h
  have hs' : Inv s.takeTurn := hs.congr rfl rfl rfl rfl
  rcases step_cases h with ⟨_, rfl⟩ | ⟨k, hn, rfl⟩ | ⟨_, hb⟩
  · exact inv_resetBlock hs'
  · exact inv_hostTurn hs hn
  · exact inv_blockStep hs' hb

end Sys2Proof.Machine
end

section
/-! SUPPORT. Whose turn it is (60_exceptions.md R260; log 10), and what each kind of turn leaves unchanged. -/

namespace Sys2Proof.Machine

theorem firstReady_eq_none_iff {k : Nat} {hs : List HostAgent} :
    firstReady k hs = none ↔ ∀ h ∈ hs, h.ready = false := by
  induction hs generalizing k with
  | nil => simp [firstReady]
  | cons h hs ih => cases hr : h.ready <;> simp [firstReady, hr, ih]

/-- The agent `firstReady` answers is ready, and none before it is. -/
theorem firstReady_eq_some {k n : Nat} {hs : List HostAgent} (h : firstReady k hs = some n) :
    ∃ i g, n = k + i ∧ hs[i]? = some g ∧ g.ready = true ∧ ∀ j g', j < i → hs[j]? = some g' → g'.ready = false := by
  induction hs generalizing k with
  | nil => simp [firstReady] at h
  | cons x xs ih =>
    cases hx : x.ready with
    | true =>
      obtain rfl : k = n := by simpa [firstReady, hx] using h
      exact ⟨0, x, rfl, rfl, hx, by simp⟩
    | false =>
      obtain ⟨i, g, rfl, hg, hready, hbefore⟩ := ih (k := k + 1) (by simpa [firstReady, hx] using h)
      refine ⟨i + 1, g, by omega, hg, hready, fun j g' hj hg' => ?_⟩
      cases j with
      | zero =>
        obtain rfl : x = g' := by simpa using hg'
        exact hx
      | succ j => exact hbefore j g' (by omega) hg'

theorem nextTurn_of_busy {s : State} (hs : s.schedule = []) (hb : s.status.busy = true) : s.nextTurn = .block := by
  simp [State.nextTurn, hs, hb]

theorem nextTurn_of_ready {s : State} {k : Nat} (hs : s.schedule = []) (hb : s.status.busy = false)
    (hf : firstReady 0 s.hosts = some k) : s.nextTurn = .host k := by
  simp [State.nextTurn, hs, hb, hf]

theorem nextTurn_of_none_ready {s : State} (hs : s.schedule = []) (hb : s.status.busy = false)
    (hf : firstReady 0 s.hosts = none) : s.nextTurn = .block := by
  simp [State.nextTurn, hs, hb, hf]

theorem nextTurn_of_schedule {s : State} {t : Turn} {ts : List Turn} (hs : s.schedule = t :: ts) : s.nextTurn = t := by
  simp [State.nextTurn, hs]

/-- A used-up schedule has no turn to take off. -/
theorem takeTurn_of_used_up {s : State} (hs : s.schedule = []) : s.takeTurn = s := by
  simp only [State.takeTurn, hs, List.tail_nil]
  rw [← hs]

/-- On an agent's turn the step is that agent's. -/
theorem step_of_host {s : State} {k : Nat} (hn : s.nextTurn = .host k) : step s = .next (hostStep k s.takeTurn) := by
  rw [step, hn, runTurn]

/-- The block's turn runs the command that the latched word decodes to (60_exceptions.md R269). -/
theorem blockStep_of_command {s : State} {i : Instr} (hb : s.status.busy = true)
    (hd : decode s.params.hasCrc s.latched.op = .command i) : blockStep s = exec i s := by
  simp only [blockStep, hb, if_true, State.command, hd]

/-- A host agent's turn changes neither the results nor the order of turns. -/
theorem hostTurn_keeps {k : Nat} {s : State} (hn : s.nextTurn = .host k) :
    (hostStep k s.takeTurn).res = s.res ∧ (hostStep k s.takeTurn).faultAddr = s.faultAddr ∧
    (hostStep k s.takeTurn).schedule = s.schedule.tail := by
  rcases hostTurn_cases hn with ⟨_, e⟩ | ⟨r, v, _, _, e⟩ | ⟨_, _, _, _, _, _, _, e⟩ <;> rw [e]
  · exact ⟨rfl, rfl, rfl⟩
  · obtain ⟨-, hres, hfault, -, -, -, hschedule⟩ := regWrite_keeps r v s.takeTurn
    exact ⟨hres, hfault, hschedule⟩
  · exact ⟨rfl, rfl, rfl⟩

/-- The block never writes source memory (20_memory.md R50). -/
theorem blockStep_mem {s t : State} (h : blockStep s = .next t) : t.mem = s.mem := by
  rcases blockStep_cases s with ⟨_, e⟩ | ⟨_, c, e | e, _⟩ <;>
    obtain rfl := Host.Outcome.next.inj (e.symm.trans h) <;> rfl

/-- Every step answers a next state, whoever moves. -/
theorem exists_step_eq_next (s : State) : ∃ t, step s = .next t := by
  cases hn : s.nextTurn with
  | reset => exact ⟨_, step_of_reset hn⟩
  | host k => exact ⟨_, step_of_host hn⟩
  | block =>
    rw [step_of_block hn]
    rcases blockStep_cases s.takeTurn with ⟨_, e⟩ | ⟨_, _, e | e, _⟩ <;> exact ⟨_, e⟩

end Sys2Proof.Machine
end

section
/-! SUPPORT. The machine beside a change of the latched operands, while IDLE (10_state.md R36, 93_implementation_defined.md
U5): each operation of a host agent either does not see the latch or, at an acceptance, overwrites it. -/

namespace Sys2Proof.Machine

/-- The state with other latched operands. -/
def State.withLatch (l : Latched) (s : State) : State := { s with latched := l }

/-- No register shows the latch (10_state.md R36). -/
theorem regRead_withLatch (l : Latched) (r : Reg) (s : State) : regRead r (s.withLatch l) = regRead r s := by
  cases r <;> rfl

/-- The second state is the first, or the first while IDLE with other latched operands. -/
def SameButLatch (l : Latched) (t t' : State) : Prop := t' = t ∨ (t.status.busy = false ∧ t' = t.withLatch l)

/-- A change that neither reads nor writes the latch and the phase keeps the relation. -/
theorem SameButLatch.map {l : Latched} {t t' : State} (h : SameButLatch l t t') (f : State → State)
    (hf : f (t.withLatch l) = (f t).withLatch l) (hb : (f t).status.busy = t.status.busy) :
    SameButLatch l (f t) (f t') := by
  rcases h with rfl | ⟨hidle, rfl⟩
  · exact .inl rfl
  · exact .inr ⟨hb.trans hidle, hf⟩

section
variable {l : Latched} {s : State} (hidle : s.status.busy = false)
include hidle

theorem sameButLatch_withLatch : SameButLatch l s (s.withLatch l) := .inr ⟨hidle, rfl⟩

theorem sameButLatch_setHost (k : Nat) (h : HostAgent) : SameButLatch l (s.setHost k h) ((s.withLatch l).setHost k h) :=
  .inr ⟨hidle, rfl⟩

theorem sameButLatch_regWrite (r : Reg) (v : Word64) :
    SameButLatch l (regWrite r v s) (regWrite r v (s.withLatch l)) := by
  cases r with
  | cmd =>
    have hidle' : (s.withLatch l).status.busy = false := hidle
    left
    rw [regWrite, regWrite, offerCommand_idle hidle, offerCommand_idle hidle']
    rfl
  | _ => exact .inr ⟨hidle, rfl⟩

/-- While IDLE a store marks no window, so it does not look at the latch. -/
theorem sameButLatch_storeByte (a : Nat) (b : Byte) :
    SameButLatch l (storeByte a b s) (storeByte a b (s.withLatch l)) := by
  refine .inr ⟨hidle, ?_⟩
  simp [storeByte, State.withLatch, hidle]

theorem sameButLatch_hostRead (k : Nat) (h : HostAgent) (r : Reg) :
    SameButLatch l (hostRead k h r s) (hostRead k h r (s.withLatch l)) := by
  rw [hostRead, hostRead, regRead_withLatch]
  exact sameButLatch_setHost hidle k _

theorem sameButLatch_hostWrite (k : Nat) (h : HostAgent) (r : Reg) (v : Word64) :
    SameButLatch l (hostWrite k h r v s) (hostWrite k h r v (s.withLatch l)) :=
  (sameButLatch_regWrite hidle r v).map (State.setHost k h.advance) rfl rfl

theorem sameButLatch_runStmt (k : Nat) (h : HostAgent) (st : Stmt) :
    SameButLatch l (runStmt k h st s) (runStmt k h st (s.withLatch l)) := by
  have hidle' : (s.withLatch l).status.busy = false := hidle
  cases st with
  | wr r v => exact sameButLatch_hostWrite hidle k h r v
  | rd r => exact sameButLatch_hostRead hidle k h r
  | wait =>
    simp only [runStmt, hostWait, hidle, hidle', Bool.false_eq_true, if_false]
    exact sameButLatch_setHost hidle k _
  | store a bytes =>
    cases bytes with
    | nil => exact sameButLatch_setHost hidle k _
    | cons b rest =>
      simp only [runStmt, hostStore]
      split
      · exact (sameButLatch_storeByte hidle a b).map (State.setHost k _) rfl rfl
      · exact sameButLatch_setHost hidle k _
  | bus a =>
    have hparams : (s.withLatch l).params = s.params := rfl
    simp only [runStmt, hostBus, hparams]
    split
    · exact sameButLatch_setHost hidle k _
    · next r _ =>
      split
      · exact sameButLatch_hostRead hidle k h r
      · exact sameButLatch_hostWrite hidle k h _ _

theorem sameButLatch_hostStep (k : Nat) : SameButLatch l (hostStep k s) (hostStep k (s.withLatch l)) := by
  have hhosts : (s.withLatch l).hosts = s.hosts := rfl
  simp only [hostStep, hhosts]
  split
  · exact sameButLatch_withLatch hidle
  · split
    · exact sameButLatch_withLatch hidle
    · split
      · exact sameButLatch_withLatch hidle
      · exact sameButLatch_runStmt hidle k _ _

end

/-- While IDLE the step of a state with other latched operands is the same step. -/
theorem step_withLatch {s : State} (hidle : s.status.busy = false) (l : Latched) :
    ∃ t t', step s = .next t ∧ step (s.withLatch l) = .next t' ∧ SameButLatch l t t' := by
  cases hn : s.nextTurn with
  | reset => exact ⟨_, _, step_of_reset hn, step_of_reset (s := s.withLatch l) hn, .inl rfl⟩
  | host k => exact ⟨_, _, step_of_host hn, step_of_host (s := s.withLatch l) hn,
    sameButLatch_hostStep (s := s.takeTurn) hidle k⟩
  | block =>
    exact ⟨_, _, (step_of_block hn).trans (blockStep_of_idle (s := s.takeTurn) hidle),
      (step_of_block (s := s.withLatch l) hn).trans (blockStep_of_idle (s := s.takeTurn.withLatch l) hidle),
      sameButLatch_withLatch (s := s.takeTurn) hidle⟩

end Sys2Proof.Machine
end

section
/-! SUPPORT. The run to the completion of an accepted command (70_reset_and_hazards.md R311; log 10). -/

namespace Sys2Proof.Machine

/-- On the block's turn the command completes (60_exceptions.md R269, R270). -/
theorem completes_of_block_turn {s : State} (hn : s.nextTurn = .block) (hb : s.status.busy = true) :
    ∃ t, step s = .next t ∧ core.run 1 s = .next t ∧ t.status.busy = false ∧ t.status.done = true := by
  obtain ⟨t, ht⟩ := exists_step_eq_next s
  obtain ⟨_, hidle, hdone⟩ := blockStep_next ((step_of_block hn).symm.trans ht)
  exact ⟨t, ht, core_run_succ ht 0, hidle, hdone hb⟩

/-- The block's turn or a reset, whichever the schedule brings first, ends the command; each agent's turn before it leaves the
block BUSY and the schedule one turn shorter. -/
theorem exists_run_to_completion {ts : List Turn} {s : State} (hs : s.schedule = ts) (hb : s.status.busy = true) :
    ∃ n u t, n ≤ ts.length ∧ core.run n s = .next u ∧ u.status.busy = true ∧ step u = .next t ∧
      core.run (n + 1) s = .next t ∧ t.status.busy = false ∧
      ((u.nextTurn = .block ∧ t.status.done = true) ∨ (u.nextTurn = .reset ∧ Turn.reset ∈ ts)) := by
  induction ts generalizing s with
  | nil =>
    have hn := nextTurn_of_busy hs hb
    obtain ⟨t, ht, hrun, hidle, hdone⟩ := completes_of_block_turn hn hb
    exact ⟨0, s, t, Nat.le_refl _, rfl, hb, ht, hrun, hidle, .inl ⟨hn, hdone⟩⟩
  | cons turn ts ih =>
    have hn := nextTurn_of_schedule hs
    cases turn with
    | block =>
      obtain ⟨t, ht, hrun, hidle, hdone⟩ := completes_of_block_turn hn hb
      exact ⟨0, s, t, Nat.zero_le _, rfl, hb, ht, hrun, hidle, .inl ⟨hn, hdone⟩⟩
    | reset =>
      have ht := step_of_reset hn
      exact ⟨0, s, _, Nat.zero_le _, rfl, hb, ht, core_run_succ ht 0, rfl, .inr ⟨hn, by simp⟩⟩
    | host k =>
      have ht := step_of_host hn
      obtain ⟨-, -, htail⟩ := hostTurn_keeps hn
      have hschedule : (hostStep k s.takeTurn).schedule = ts := by rw [htail, hs, List.tail_cons]
      have hbusy : (hostStep k s.takeTurn).status.busy = true := by
        rcases hostTurn_phase hn with hkept | ⟨_, hidle, _⟩
        · exact hkept.trans hb
        · simp [hb] at hidle
      obtain ⟨n, u, t, hle, hrun, hu, hstep, hrun', hidle, hend⟩ := ih hschedule hbusy
      exact ⟨n + 1, u, t, by simpa using hle, (core_run_succ ht n).trans hrun, hu, hstep,
        (core_run_succ ht (n + 1)).trans hrun', hidle, hend.imp_right fun h => ⟨h.1, List.mem_cons_of_mem _ h.2⟩⟩

end Sys2Proof.Machine
end

section
/-! PROOFS. The obligations of the family other about the machine's steps: O3, O4, O6, O7, O35, O36, O38, O39, O60. -/

namespace Sys2Proof.Machine

/-- Settles O7: while BUSY the block is next, and while IDLE `firstReady` finds the lowest agent that can move, if any. -/
theorem usedUpScheduleLetsTheBlockComplete : Obligations.UsedUpScheduleLetsTheBlockComplete := by
  refine ⟨fun s => nextTurn_of_busy, fun s hs hb hnone => ?nobody, fun s hs hb h hmem hready => ?lowest⟩
  case nobody =>
    rw [step_of_block (nextTurn_of_none_ready hs hb (firstReady_eq_none_iff.mpr hnone)), takeTurn_of_used_up hs,
      blockStep_of_idle hb]
  case lowest =>
    cases hf : firstReady 0 s.hosts with
    | none => simp [firstReady_eq_none_iff.mp hf h hmem] at hready
    | some k =>
      obtain ⟨i, g, hk, hg, hgready, hbefore⟩ := firstReady_eq_some hf
      obtain rfl : k = i := by omega
      exact ⟨k, g, nextTurn_of_ready hs hb hf, hg, hgready, hbefore⟩

/-- Settles O35: a host agent's turn keeps the results, and the block's turn while IDLE changes nothing. -/
theorem resultsChangeOnlyByCompletionOrReset : Obligations.ResultsChangeOnlyByCompletionOrReset := by
  intro s t h hchange
  rcases step_cases h with ⟨hn, _⟩ | ⟨k, hn, rfl⟩ | ⟨hn, hb⟩
  · exact .inr hn
  · obtain ⟨hres, hfault, -⟩ := hostTurn_keeps hn
    simp [hres, hfault] at hchange
  · cases hbusy : s.status.busy with
    | true => exact .inl ⟨hn, rfl⟩
    | false =>
      rw [blockStep_of_idle (s := s.takeTurn) hbusy] at hb
      obtain rfl := Host.Outcome.next.inj hb
      simp at hchange

/-- Settles O36: of everything a turn can do, only a stored byte touches source memory. -/
theorem onlyHostStoresChangeSourceMemory : Obligations.OnlyHostStoresChangeSourceMemory := by
  intro s t h
  rcases step_cases h with ⟨_, rfl⟩ | ⟨k, hn, rfl⟩ | ⟨_, hb⟩
  · exact .inl rfl
  · rcases hostTurn_cases hn with ⟨_, e⟩ | ⟨r, v, _, _, e⟩ | ⟨g, a, b, rest, _, _, hstmt, e⟩ <;> rw [e]
    · exact .inl rfl
    · obtain ⟨-, -, -, hmem, -⟩ := regWrite_keeps r v s.takeTurn
      exact .inl hmem
    · exact .inr ⟨k, g, a, b, rest, hstmt, rfl, fun x hx => Memory.read_write_other hx⟩
  · exact .inl (blockStep_mem (s := s.takeTurn) hb)

/-- Settles O38, by induction on the schedule. -/
theorem acceptedCommandCompletes : Obligations.AcceptedCommandCompletes := fun _ hb => exists_run_to_completion rfl hb

/-- Settles O39: the two runs of the step are the same but for the latch. -/
theorem latchIsUnobservableWhileIdle : Obligations.LatchIsUnobservableWhileIdle :=
  fun _ l hidle => step_withLatch hidle l

/-- Settles O3: the decoder evaluated on the fourteen words. -/
theorem opcodeTableWordsDecode : Obligations.OpcodeTableWordsDecode := by
  unfold Obligations.OpcodeTableWordsDecode
  decide

/-- Settles O4: the completion step, on the state with the turn taken off. -/
theorem stepRunsTheDecodedCommand : Obligations.StepRunsTheDecodedCommand := by
  intro s i hn hb hd
  rw [step_of_block hn, blockStep_of_command (s := s.takeTurn) hb hd]

/-- Settles O6: the completion step is not enabled while IDLE. -/
theorem idleBlockTakesNoStep : Obligations.IdleBlockTakesNoStep := by
  intro s hn hb
  rw [step_of_block hn, blockStep_of_idle (s := s.takeTurn) hb]

/-- Settles O60: each of the three kinds of turn answers a next state. -/
theorem everyStepAnswersANextState : Obligations.EveryStepAnswersANextState := exists_step_eq_next

end Sys2Proof.Machine
end

section
/-! SUPPORT. The register window's addresses (20_memory.md R60), and the block's state beside the agents: a register write does
not look at the agents. -/

namespace Sys2Proof.Machine

/-- `REG_BASE` is the page number above eight zero bits. -/
theorem regBase_toNat (p : Params) : (regBase p).toNat = 0x100 * p.regPage.toNat :=
  (BitVec.toNat_append p.regPage (0 : BitVec 8)).trans (by simp [Nat.shiftLeft_eq, Nat.mul_comm])

/-- The registers stand at the multiples of 8 below 0x100 (10_state.md R21, R33). -/
theorem exists_offset_eq_iff {off : Nat} : (∃ r : Reg, off = r.offset) ↔ off < 0x100 ∧ off % 8 = 0 := by
  constructor
  · rintro ⟨r, hr⟩
    exact Reg.ofOffset_bound (Reg.ofOffset_eq_some.mpr hr)
  · rintro ⟨hlt, hmod⟩
    obtain ⟨q, rfl⟩ := Nat.dvd_of_mod_eq_zero hmod
    have hq : q < 32 := by omega
    by_cases hres : q < 13
    · interval_cases q
      exacts [⟨.cap, rfl⟩, ⟨.ctrl, rfl⟩, ⟨.status, rfl⟩, ⟨.cmd, rfl⟩, ⟨.src, rfl⟩, ⟨.len, rfl⟩, ⟨.seed0, rfl⟩,
        ⟨.seed1, rfl⟩, ⟨.res0, rfl⟩, ⟨.res1, rfl⟩, ⟨.res2, rfl⟩, ⟨.res3, rfl⟩, ⟨.faultAddr, rfl⟩]
    · refine ⟨.reserved ⟨q - 13, by omega⟩, ?_⟩
      simp only [Reg.offset]
      omega

/-- An access reaches a register exactly when it is 64 bits wide at the register's address (20_memory.md R60). -/
theorem admitted_eq_some_iff {p : Params} {a : BusAccess} {r : Reg} :
    admitted p a = some r ↔ a.width = 8 ∧ a.addr.toNat = (regBase p).toNat + r.offset := by
  unfold admitted
  split
  · next h => rw [Reg.ofOffset_eq_some]; omega
  · next h => exact iff_of_false nofun (by omega)

@[simp] theorem regWrite_hosts (r : Reg) (v : Word64) (s : State) : (regWrite r v s).hosts = s.hosts := by
  obtain ⟨-, -, -, -, -, hhosts, -⟩ := regWrite_keeps r v s
  exact hhosts

@[simp] theorem regRead_takeTurn (r : Reg) (s : State) : regRead r s.takeTurn = regRead r s := by
  cases r <;> rfl

theorem setHost_eq (k : Nat) (h : HostAgent) (s : State) : s.setHost k h = { s with hosts := s.hosts.set k h } := rfl

/-- The `wr` step is the register write, and the agent moves on. -/
theorem hostWrite_takeTurn (k : Nat) (h : HostAgent) (r : Reg) (v : Word64) (s : State) :
    hostWrite k h r v s.takeTurn =
      { regWrite r v s.takeTurn with hosts := s.hosts.set k { h with program := h.program.tail } } := by
  rw [hostWrite, setHost_eq, regWrite_hosts]
  rfl

/-- The `rd` step records the value read, and changes nothing but the agent. -/
theorem hostRead_takeTurn (k : Nat) (h : HostAgent) (r : Reg) (s : State) :
    hostRead k h r s.takeTurn =
      { s.takeTurn with
        hosts := s.hosts.set k { h with program := h.program.tail, reads := h.reads ++ [regRead r s] } } := by
  rw [hostRead, regRead_takeTurn]
  rfl

/-- The turn of a stuck agent passes (93_implementation_defined.md U4). -/
theorem hostStep_of_stuck {k : Nat} {h : HostAgent} {s : State} (hk : s.hosts[k]? = some h) (hs : h.stuck = true) :
    hostStep k s = s := by
  simp only [hostStep, hk, hs, if_true]

end Sys2Proof.Machine
end

section
/-! PROOFS. The obligations of the family other about the host agents: O40, O41, O42, O43. -/

namespace Sys2Proof.Machine

/-- Settles O40: the register's address decides admission, and the offsets are the multiples of 8 below 0x100. -/
theorem admittedAccessesAreAlignedWords : Obligations.AdmittedAccessesAreAlignedWords := by
  intro p a
  refine ⟨fun r => admitted_eq_some_iff, ?_, by rw [regBase_toNat]; omega⟩
  have hoff := @exists_offset_eq_iff (a.addr.toNat - (regBase p).toNat)
  simp only [admitted_eq_some_iff]
  constructor
  · rintro ⟨r, hw, haddr⟩
    obtain ⟨hlt, hmod⟩ := hoff.mp ⟨r, by omega⟩
    exact ⟨hw, by omega, by omega, hmod⟩
  · rintro ⟨hw, hlo, hhi, hmod⟩
    obtain ⟨r, hr⟩ := hoff.mpr ⟨by omega, hmod⟩
    exact ⟨r, hw, by omega⟩

/-- Settles O43: the step is `storeByte`, whose memory laws say what each address reads as. -/
theorem storeWritesOneByteAndMarksTheWindow : Obligations.StoreWritesOneByteAndMarksTheWindow := by
  intro s k h a b rest hstmt hwf
  rw [step_of_nextStmt hstmt]
  refine ⟨fun ha => ⟨_, rfl, ?_⟩, fun ha => ?_⟩ <;> simp only [runStmt, hostStore]
  · rw [if_pos ha]
    refine ⟨Memory.read_write_same hwf, fun x hx => Memory.read_write_other hx, rfl, ?_⟩
    simp [inWindow_iff]
  · rw [if_neg (by omega)]
    rfl

/-- Settles O41: an access that is not admitted only halts its agent, and a halted agent's step is the identity. -/
theorem unadmittedAccessSticksTheAgent : Obligations.UnadmittedAccessSticksTheAgent := by
  refine ⟨fun s k h a hstmt hno => ?_, fun s k h hn hk hs => ?_⟩
  · rw [step_of_nextStmt hstmt]
    simp only [runStmt, hostBus, takeTurn_params, hno]
    rfl
  · rw [step_of_host hn, hostStep_of_stuck (s := s.takeTurn) hk hs]

/-- Settles O42: one clause per statement form, each the step `runStmt` gives it. -/
theorem hostStatementsAccessTheirRegister : Obligations.HostStatementsAccessTheirRegister := by
  intro s k h
  refine ⟨fun r v hstmt => ?wr, fun r hstmt => ?rd, fun hstmt => ⟨fun hb => ?waitBusy, fun hb => ?waitIdle⟩,
    fun a r v hstmt hr hv => ?busWrite, fun a r hstmt hr hv => ?busRead, fun a hstmt => ?storeEnd⟩ <;>
    rw [step_of_nextStmt hstmt, runStmt]
  case wr => rw [hostWrite_takeTurn]
  case rd => rw [hostRead_takeTurn]
  case waitBusy => simp only [hostWait, takeTurn_status, hb, if_true]
  case waitIdle =>
    simp only [hostWait, takeTurn_status, hb, Bool.false_eq_true, if_false]
    rfl
  case busWrite => simp only [hostBus, takeTurn_params, hr, hv, hostWrite_takeTurn]
  case busRead => simp only [hostBus, takeTurn_params, hr, hv, hostRead_takeTurn]
  case storeEnd => rfl

end Sys2Proof.Machine
end

section
/-! SUPPORT. What a command answers, window by window: one that can be hashed, one that was written, one with side-effecting
reads; and what two runs of a command share. -/

namespace Sys2Proof.Machine

/-- On a window that can be hashed a command that reads memory completes OK with its function of the view. -/
theorem runOnWindow_eq_recordOf (f : View → Quad) {s : State} (h : WindowOk s) :
    runOnWindow f s = .next (recordOf .ok (f (inputView s)) 0 s) := by
  rw [runOnWindow_of_windowOk f h, ofBytes_windowBytes, complete_eq_recordOf]
  rfl

/-- A CRC command on a block with `HAS_CRC` runs on its window (45_crc.md R230). -/
theorem runOnWindowIfCrc_of_hasCrc (f : View → Quad) {s : State} (h : s.params.hasCrc = true) :
    runOnWindowIfCrc f s = runOnWindow f s := by
  rw [runOnWindowIfCrc, if_pos h]

/-- A CRC command on a block without `HAS_CRC` completes ILLEGAL_OP (60_exceptions.md R263; log 14). -/
theorem runOnWindowIfCrc_of_not_hasCrc (f : View → Quad) {s : State} (h : s.params.hasCrc = false) :
    runOnWindowIfCrc f s = .next (recordOf .illegalOp ⟨0, 0, 0, 0⟩ 0 s) := by
  simp only [runOnWindowIfCrc, h, Bool.false_eq_true, if_false, complete_eq_recordOf]
  rfl

theorem exec_of_not_hasCrc {i : Instr} {s : State} (hi : i.usesCrc = true) (h : s.params.hasCrc = false) :
    exec i s = .next (recordOf .illegalOp ⟨0, 0, 0, 0⟩ 0 s) := by
  cases i with
  | hashcrc128 | hashcrc128Seed | hashcrc256 => exact runOnWindowIfCrc_of_not_hasCrc _ h
  | _ => simp [Instr.usesCrc] at hi

/-- FOLD128 alone reads no window (30_encoding.md R86). -/
theorem eq_fold128_of_not_readsWindow {i : Instr} (h : i.readsWindow = false) : i = .fold128 := by
  cases i with
  | fold128 => rfl
  | _ => simp [Instr.readsWindow] at h

/-- What `runOnWindow` answers, by whether its results are drawn. -/
theorem runOnWindow_eq (f : View → Quad) (s : State) :
    runOnWindow f s = .next (if resultsAreDrawn (windowCompletion f s) s
      then completeDrawn (windowCompletion f s) s else complete (windowCompletion f s) s) := by
  simp only [runOnWindow]
  split <;> rfl

theorem anySideEffecting_of_mem {p : Params} {a n k : Nat} (hk : k < n) (h : isSideEffecting p (a + k) = true) :
    anySideEffecting p a n = true := by
  by_contra hno
  have hnone := anySideEffecting_eq_false.mp (Bool.eq_false_iff.mpr hno) k hk
  simp [h] at hnone

/-- The completion of a window that passes the check. -/
theorem windowCompletion_of_checkWindow_none (f : View → Quad) {s : State} (h : checkWindow s.params s.latched = none) :
    windowCompletion f s = .ok (f (View.ofBytes (windowBytes s))) := by
  simp only [windowCompletion, h]

/-- A window that passes the check and holds a byte whose reads have side effects: the completion is OK, with draws. -/
theorem runOnWindow_of_sideEffects (f : View → Quad) {s : State} (hc : checkWindow s.params s.latched = none)
    (hs : anySideEffecting s.params s.latched.src.toNat s.latched.len.toNat = true) :
    runOnWindow f s = .next { recordOf .ok (drawsFrom s.draws) 0 s with draws := s.draws + 4 } := by
  have hcomp := windowCompletion_of_checkWindow_none f hc
  have hd : resultsAreDrawn (windowCompletion f s) s = true := by simp [resultsAreDrawn, hs, hcomp, Completion.cause]
  rw [runOnWindow_eq, hd, if_pos rfl, hcomp]
  rfl

/-- The window check looks at SRC and LEN of the latch only. -/
theorem checkWindow_congr {p : Params} {l l' : Latched} (hsrc : l.src = l'.src) (hlen : l.len = l'.len) :
    checkWindow p l = checkWindow p l' := by
  simp only [checkWindow, hsrc, hlen]

/-- `runOnWindow` needs its function at the window's view only. -/
theorem runOnWindow_congr {f g : View → Quad} {s : State}
    (h : f (View.ofBytes (windowBytes s)) = g (View.ofBytes (windowBytes s))) : runOnWindow f s = runOnWindow g s := by
  have hcomp : windowCompletion f s = windowCompletion g s := by simp only [windowCompletion, h]
  rw [runOnWindow_eq, runOnWindow_eq, hcomp]

/-- Two states alike in the window check, the window's bytes and what makes the results a draw complete alike. -/
theorem runOnWindow_alike (f : View → Quad) {s u : State}
    (hcheck : checkWindow s.params s.latched = checkWindow u.params u.latched) (hbytes : windowBytes s = windowBytes u)
    (hwritten : s.windowWritten = u.windowWritten)
    (hside : anySideEffecting s.params s.latched.src.toNat s.latched.len.toNat =
      anySideEffecting u.params u.latched.src.toNat u.latched.len.toNat) :
    ∃ c, (runOnWindow f s = .next (complete c s) ∧ runOnWindow f u = .next (complete c u)) ∨
      (runOnWindow f s = .next (completeDrawn c s) ∧ runOnWindow f u = .next (completeDrawn c u)) := by
  have hcomp : windowCompletion f s = windowCompletion f u := by simp only [windowCompletion, hcheck, hbytes]
  have hdrawn : resultsAreDrawn (windowCompletion f u) s = resultsAreDrawn (windowCompletion f u) u := by
    simp only [resultsAreDrawn, hwritten, hside]
  refine ⟨windowCompletion f u, ?_⟩
  rw [runOnWindow_eq, runOnWindow_eq, hcomp, hdrawn]
  cases resultsAreDrawn (windowCompletion f u) u with
  | false => exact .inl ⟨rfl, rfl⟩
  | true => exact .inr ⟨rfl, rfl⟩

/-- The state with other latched seeds. -/
def State.withSeeds (x y : Word64) (s : State) : State :=
  { s with latched := { s.latched with seed0 := x, seed1 := y } }

/-- The latched seeds have a part in a command that reads memory only through its function. -/
theorem runOnWindow_res_withSeeds (f : View → Quad) (s : State) (x y x' y' : Word64) :
    ∃ t t', runOnWindow f (s.withSeeds x y) = .next t ∧ runOnWindow f (s.withSeeds x' y') = .next t' ∧
      t.res = t'.res := by
  have hcheck : checkWindow (s.withSeeds x y).params (s.withSeeds x y).latched =
      checkWindow (s.withSeeds x' y').params (s.withSeeds x' y').latched := checkWindow_congr rfl rfl
  obtain ⟨c, ⟨ht, ht'⟩ | ⟨ht, ht'⟩⟩ := runOnWindow_alike f hcheck rfl rfl rfl <;> exact ⟨_, _, ht, ht', rfl⟩

/-- The state of the block with another `HAS_CRC`. -/
def State.withHasCrc (b : Bool) (s : State) : State := { s with params := { s.params with hasCrc := b } }

theorem firstUnreadable_withHasCrc (p : Params) (b : Bool) (a n : Nat) :
    firstUnreadable { p with hasCrc := b } a n = firstUnreadable p a n := by
  induction n generalizing a with
  | zero => rfl
  | succ n ih =>
    have hread : isReadable { p with hasCrc := b } a = isReadable p a := rfl
    simp only [firstUnreadable, ih, hread]

theorem anySideEffecting_withHasCrc (p : Params) (b : Bool) (a n : Nat) :
    anySideEffecting { p with hasCrc := b } a n = anySideEffecting p a n := by
  induction n generalizing a with
  | zero => rfl
  | succ n ih =>
    have hside : isSideEffecting { p with hasCrc := b } a = isSideEffecting p a := rfl
    simp only [anySideEffecting, ih, hside]

/-- `HAS_CRC` has no part in a command that reads memory. -/
theorem runOnWindow_withHasCrc (f : View → Quad) (s : State) (b : Bool) :
    ∃ t, runOnWindow f s = .next t ∧ runOnWindow f (s.withHasCrc b) = .next (t.withHasCrc b) := by
  have hcheck : checkWindow s.params s.latched = checkWindow (s.withHasCrc b).params (s.withHasCrc b).latched := by
    simp only [checkWindow, State.withHasCrc, firstUnreadable_withHasCrc]
  have hside := anySideEffecting_withHasCrc s.params b s.latched.src.toNat s.latched.len.toNat
  obtain ⟨c, ⟨ht, ht'⟩ | ⟨ht, ht'⟩⟩ := runOnWindow_alike f (u := s.withHasCrc b) hcheck rfl rfl hside.symm <;>
    exact ⟨_, ht, ht'⟩

/-- `HAS_CRC` has no part in OPs 0x01 to 0x07 (45_crc.md R243). -/
theorem exec_withHasCrc {i : Instr} (hi : i.usesCrc = false) (s : State) (b : Bool) :
    ∃ t, exec i s = .next t ∧ exec i (s.withHasCrc b) = .next (t.withHasCrc b) := by
  cases i with
  | fold128 => exact ⟨_, rfl, rfl⟩
  | hashcrc128 | hashcrc128Seed | hashcrc256 => simp [Instr.usesCrc] at hi
  | _ => exact runOnWindow_withHasCrc _ s b

/-- Up to 900 bytes the branch of HASHCRC128 is the portable hash, whatever `CRC256` is (45_crc.md R240). -/
theorem cityHashCrc128_of_len_le_900 (crc256 : List Byte → Quad) {v : View} (h : v.len ≤ 900) :
    cityHashCrc128 crc256 v = cityHash128 v := by
  rw [cityHashCrc128, if_pos h]

theorem cityHashCrc128WithSeed_of_len_le_900 (crc256 : List Byte → Quad) {v : View} (h : v.len ≤ 900) (seed : Pair) :
    cityHashCrc128WithSeed crc256 v seed = cityHash128WithSeed v seed := by
  rw [cityHashCrc128WithSeed, if_pos h]

/-- Above 900 bytes the branch of HASHCRC128 is words 2 and 3 of `CRC256` (45_crc.md R240). -/
theorem cityHashCrc128_of_900_lt_len (crc256 : List Byte → Quad) {v : View} (h : 900 < v.len) :
    cityHashCrc128 crc256 v = ⟨(crc256 v.bytes).r2, (crc256 v.bytes).r3⟩ := by
  rw [cityHashCrc128, if_neg (by omega)]

/-- Above 900 bytes the branch of HASHCRC128_SEED combines all four words with the seed (45_crc.md R241). -/
theorem cityHashCrc128WithSeed_of_900_lt_len (crc256 : List Byte → Quad) {v : View} (h : 900 < v.len) (seed : Pair) :
    cityHashCrc128WithSeed crc256 v seed =
      ⟨hashLen16 (seed.hi + (crc256 v.bytes).r0) (seed.lo + (crc256 v.bytes).r1 + (crc256 v.bytes).r2),
        hashLen16 (rotr64 (seed.lo + (crc256 v.bytes).r1) 32)
          ((seed.hi + (crc256 v.bytes).r0) * k0 + (crc256 v.bytes).r3)⟩ := by
  rw [cityHashCrc128WithSeed, if_neg (by omega)]

theorem windowBytes_view_len (s : State) : (View.ofBytes (windowBytes s)).len = s.latched.len.toNat := by
  rw [ofBytes_windowBytes, inputView_len]

/-- An empty window at a non-null address can be hashed, readable or not (60_exceptions.md R264). -/
theorem windowOk_of_empty {s : State} (hsrc : s.latched.src ≠ 0) (hlen : s.latched.len = 0)
    (hw : s.windowWritten = false) : WindowOk s := by
  have hlen' : s.latched.len.toNat = 0 := by simp [hlen]
  exact ⟨hsrc, by omega, fun _ _ => by omega, hw, fun _ _ => by omega⟩

theorem inputView_of_empty {s : State} (hlen : s.latched.len = 0) : inputView s = View.ofBytes [] := by
  simp [inputView, hlen]

end Sys2Proof.Machine
end

section
/-! PROOFS. The obligations of the family other about the commands' results and causes: O8, O9, O10, O12, O13, O15 to O21,
O53, O54, O55. -/

namespace Sys2Proof.Machine

/-- Settles O12: on a window that can be hashed each command is its function of the view, on either side of 900 bytes. -/
theorem crcCommandsCompleteWithTheirHash : Obligations.CrcCommandsCompleteWithTheirHash := by
  intro s hok hcrc
  have run : ∀ f : View → Quad, runOnWindowIfCrc f s = .next (recordOf .ok (f (inputView s)) 0 s) := fun f =>
    (runOnWindowIfCrc_of_hasCrc f hcrc).trans (runOnWindow_eq_recordOf f hok)
  refine ⟨_, rfl, fun hle => ?_, fun hlt => ?_, run _⟩
  · have hlen : (inputView s).len ≤ 900 := by rwa [inputView_len]
    refine ⟨(run _).trans ?_, (run _).trans ?_⟩
    · rw [cityHashCrc128_of_len_le_900 _ hlen]; rfl
    · rw [cityHashCrc128WithSeed_of_len_le_900 _ hlen]; rfl
  · have hlen : 900 < (inputView s).len := by rwa [inputView_len]
    refine ⟨(run _).trans ?_, (run _).trans ?_⟩
    · rw [cityHashCrc128_of_900_lt_len _ hlen]; rfl
    · rw [cityHashCrc128WithSeed_of_900_lt_len _ hlen]; rfl

/-- Settles O15: each premise is what makes the window check raise that cause. -/
theorem badWindowCompletesWithItsCause : Obligations.BadWindowCompletesWithItsCause := by
  intro i s hr hwf hw
  obtain ⟨_, raises⟩ := windowCheckRaisesTheFirstCause
  refine ⟨fun h0 => ?absent, fun h0 hlen hsum => ?range, fun a h0 hfits hlo hhi hun hbelow => ?busFault⟩
  case absent => exact raises i s .absent hr hwf hw (checkWindow_eq_absent_iff.mpr h0)
  case range => exact raises i s .range hr hwf hw (checkWindow_eq_range_iff.mpr ⟨h0, hlen, hsum⟩)
  case busFault =>
    have hfirst := firstUnreadable_eq_some.mpr ⟨hlo, hhi, hun, hbelow⟩
    exact raises i s (.busFault a) hr hwf hw (checkWindow_eq_busFault_iff.mpr ⟨h0, fun _ => hfits, hfirst⟩)

/-- Settles O16: the mark makes the same completion draw its results. -/
theorem writtenWindowDrawsTheResultsOnly : Obligations.WrittenWindowDrawsTheResultsOnly := by
  intro i s hr hwf hw
  obtain ⟨f, hf⟩ := exec_of_readsWindow hr hwf
  have hdrawn : exec i s = .next (completeDrawn (windowCompletion f s) s) :=
    (hf s rfl rfl rfl).trans (runOnWindow_written f hw)
  have hclear := hf { s with windowWritten := false } rfl rfl rfl
  have hmark : completeDrawn (windowCompletion f s) s =
      { completeDrawn (windowCompletion f s) s with windowWritten := true } := by rw [← hw]; rfl
  rcases runOnWindow_next f { s with windowWritten := false } with h | h
  · exact ⟨_, _, hdrawn, hclear.trans h, hmark⟩
  · exact ⟨_, _, hdrawn, hclear.trans h, hmark⟩

/-- Settles O17: the window passes the check, so the completion is OK, and its side effects make the results a draw. -/
theorem sideEffectingWindowDrawsTheResults : Obligations.SideEffectingWindowDrawsTheResults := by
  intro i s k hr hwf h0 hfits hread hk hside
  obtain ⟨f, hf⟩ := exec_of_readsWindow hr hwf
  have hcheck : checkWindow s.params s.latched = none :=
    checkWindow_eq_none_iff.mpr ⟨h0, fun _ => hfits, firstUnreadable_eq_none.mpr hread⟩
  rw [hf s rfl rfl rfl, runOnWindow_of_sideEffects f hcheck (anySideEffecting_of_mem hk hside)]

/-- Settles O18: every command answers a completion, with its results or with a draw, and a completion writes only its
record. -/
theorem commandsChangeOnlyTheCompletionRecord : Obligations.CommandsChangeOnlyTheCompletionRecord := by
  intro i s
  have clear : ∀ c : Completion, c.cause ≠ .busFault → c.faultAddr = 0 := by
    intro c hc
    cases c with
    | busFault => exact absurd rfl hc
    | _ => rfl
  obtain ⟨c, he | he, -⟩ := exec_cases i s <;>
    exact ⟨_, he, rfl, rfl, rfl, Bool.true_and _, rfl, rfl, rfl, rfl, rfl, rfl, rfl, rfl, rfl, rfl, rfl, fun _ => rfl,
      clear c⟩

/-- Settles O19: a completion reads and writes none of the five registers. -/
theorem operandWritesWhileBusyAreSafe : Obligations.OperandWritesWhileBusyAreSafe := by
  refine ⟨fun i r v s hr => ?_, fun _ _ _ => ⟨rfl, rfl, rfl, rfl⟩⟩
  obtain rfl | rfl | rfl | rfl | rfl := hr <;>
    exact exec_commutes i (regWrite _ v) rfl rfl rfl rfl (fun _ => rfl) fun _ => rfl

/-- Settles O20: the two states complete with one completion, drawn or not. -/
theorem completionDependsOnlyOnLatchAndWindow : Obligations.CompletionDependsOnlyOnLatchAndWindow := by
  intro i s s' hl hp hw hd hm
  have hbytes : windowBytes s = windowBytes s' := windowBytes_congr (by rw [hl]) fun j hj => by
    rw [← hl]
    exact hm _ (by omega) (by omega)
  obtain ⟨c, ⟨h, h'⟩ | ⟨h, h'⟩⟩ := exec_same_completion i hl hp hw hbytes
  · exact ⟨_, _, h, h', rfl, rfl, rfl⟩
  · exact ⟨_, _, h, h', by simp [drawnResults, hd], rfl, rfl⟩

/-- Settles O21: a command that reads memory is one function of the two equal views; FOLD128 and an absent CRC command read
no view. -/
theorem relocatedWindowGivesTheSameResult : Obligations.RelocatedWindowGivesTheSameResult := by
  intro i s s' hok hok' hcrc hlen hs0 hs1 hm
  have hview : inputView s = inputView s' := by
    rw [← ofBytes_windowBytes, ← ofBytes_windowBytes, windowBytes_congr hlen hm]
  cases hr : i.readsWindow with
  | false =>
    obtain rfl := eq_fold128_of_not_readsWindow hr
    refine ⟨_, _, exec_fold128 s, exec_fold128 s', ?_, rfl⟩
    rw [recordOf, recordOf, hs0, hs1]
  | true =>
    cases hwf : i.wellFormed s.params.hasCrc with
    | false =>
      obtain ⟨hi, hno⟩ : i.usesCrc = true ∧ s.params.hasCrc = false := by simpa [Instr.wellFormed] using hwf
      exact ⟨_, _, exec_of_not_hasCrc hi hno, exec_of_not_hasCrc hi (hcrc.symm.trans hno), rfl, rfl⟩
    | true =>
      obtain ⟨f, hf⟩ := exec_of_readsWindow hr hwf
      refine ⟨_, _, (hf s rfl rfl rfl).trans (runOnWindow_eq_recordOf f hok),
        (hf s' hcrc.symm hs0.symm hs1.symm).trans (runOnWindow_eq_recordOf f hok'), ?_, rfl⟩
      rw [recordOf, recordOf, hview]

/-- Settles O53: the two commands compute the same function of their views. -/
theorem seedComposability : Obligations.SeedComposability := by
  intro s x y
  obtain ⟨t, t', h, h', hres⟩ := runOnWindow_res_withSeeds (fun v => resultOfWord64 (cityHash64WithSeed v x)) s x y k2 x
  exact ⟨t, t', h, h', congrArg Quad.r0 hres⟩

/-- Settles O54: up to 900 bytes the branch is the portable hash, and no portable command looks at `HAS_CRC`. -/
theorem crcPathAgreesWithThePortablePath : Obligations.CrcPathAgreesWithThePortablePath := by
  refine ⟨fun s hcrc hle => ?_, fun f v seed hle => ?_, fun i s b hi => exec_withHasCrc hi s b⟩
  · have hlen : (View.ofBytes (windowBytes s)).len ≤ 900 := by rwa [windowBytes_view_len]
    refine ⟨(runOnWindowIfCrc_of_hasCrc _ hcrc).trans (runOnWindow_congr ?_),
      (runOnWindowIfCrc_of_hasCrc _ hcrc).trans (runOnWindow_congr ?_)⟩
    · rw [cityHashCrc128_of_len_le_900 _ hlen]
    · rw [cityHashCrc128WithSeed_of_len_le_900 _ hlen]
  · exact ⟨cityHashCrc128_of_len_le_900 f hle, cityHashCrc128WithSeed_of_len_le_900 f hle seed⟩

/-- Settles O8: the command is its function of the view. -/
theorem hash32CompletesWithItsHash : Obligations.Hash32CompletesWithItsHash :=
  fun _ hok => runOnWindow_eq_recordOf _ hok

/-- Settles O9: each command is its function of the view. -/
theorem hash64CommandsCompleteWithTheirHash : Obligations.Hash64CommandsCompleteWithTheirHash :=
  fun _ hok => ⟨runOnWindow_eq_recordOf _ hok, runOnWindow_eq_recordOf _ hok, runOnWindow_eq_recordOf _ hok⟩

/-- Settles O10: each command is its function of the view. -/
theorem hash128CommandsCompleteWithTheirHash : Obligations.Hash128CommandsCompleteWithTheirHash :=
  fun _ hok => ⟨runOnWindow_eq_recordOf _ hok, runOnWindow_eq_recordOf _ hok⟩

/-- Settles O13: the CRC commands' own check of the capability. -/
theorem crcCommandsNeedTheCapability : Obligations.CrcCommandsNeedTheCapability :=
  fun _ _ hi hcrc => exec_of_not_hasCrc hi hcrc

/-- Settles O55: the empty window can be hashed, and the hashes of the empty view are evaluated. -/
theorem emptyWindowGivesTheConstants : Obligations.EmptyWindowGivesTheConstants := by
  intro s hsrc hlen hw
  have hok := windowOk_of_empty hsrc hlen hw
  have hview := inputView_of_empty hlen
  obtain ⟨h64, h64Seed, _⟩ := hash64CommandsCompleteWithTheirHash s hok
  obtain ⟨h128, _⟩ := hash128CommandsCompleteWithTheirHash s hok
  have c32 : (cityHash32 (View.ofBytes [])).setWidth 64 = (0xdc56d17a : Word64) := by decide
  have c64 : cityHash64 (View.ofBytes []) = 0x9ae16a3b2f90404f := by decide
  have c128 : cityHash128 (View.ofBytes []) = ⟨0x3df09dfc64c09a2b, 0x3cb540c392e51e29⟩ := by decide
  refine ⟨?_, ?_, ?_, fun hseed => ?_⟩
  · rw [hash32CompletesWithItsHash s hok, hview, c32]
  · rw [h64, hview, c64]
  · rw [h128, hview, c128]
  · have c64Seed : hashLen16 (0x9ae16a3b2f90404f - k2) 0 = 0 := by decide
    rw [h64Seed, hview, hseed, c64, c64Seed]

end Sys2Proof.Machine
end

section
/-! SUPPORT. CTRL and STATUS as read (10_state.md R23, R24), and the state right after reset (R43). -/

namespace Sys2Proof.Machine

/-- CTRL reads the bit it was written (10_state.md R23). -/
theorem ctrlWord_irqEnOfWrite (v : Word64) : ctrlWord (irqEnOfWrite v) = v &&& 1 :=
  BitVec.and_one_eq_setWidth_ofBool_getLsbD.symm

/-- From bit 4 up STATUS is the code of the cause (10_state.md R24). -/
theorem Status.word_getLsbD_four_add (st : Status) (i : Nat) : st.word.getLsbD (4 + i) = st.cause.code.getLsbD i := by
  rw [Status.word_getLsbD, if_neg (by omega), if_neg (by omega), if_neg (by omega)]
  simp

theorem Status.word_cause (st : Status) : st.word.extractLsb' 4 4 = st.cause.code := by
  apply BitVec.eq_of_getLsbD_eq
  intro i hi
  simp only [BitVec.getLsbD_extractLsb', hi, decide_true, Bool.true_and, Status.word_getLsbD_four_add]

/-- The code has four bits, so bits 63:8 of STATUS read 0 (10_state.md R24). -/
theorem Status.word_shift_eight (st : Status) : st.word >>> 8 = 0 := by
  apply BitVec.eq_of_getLsbD_eq
  intro i _
  rw [BitVec.getLsbD_ushiftRight, show 8 + i = 4 + (4 + i) by omega, Status.word_getLsbD_four_add,
    BitVec.getLsbD_of_ge _ _ (Nat.le_add_right 4 i)]
  exact BitVec.getLsbD_zero.symm

/-- A reset leaves the state right after reset as it is, so the register values after a reset are this state's own. -/
theorem resetBlock_init (p : Params) : resetBlock (State.init p) = State.init p := rfl

theorem registerWindow_init (p : Params) :
    registerWindow (State.init p) = [if p.hasCrc then 1 else 0, 0, 0, 0, 0, 0, 0, 0, 0, 0, 0, 0, 0] := by
  rw [← resetBlock_init]
  exact registerWindow_resetBlock (State.init p)

theorem inv_init (p : Params) : Inv (State.init p) := ⟨rfl, nofun, fun _ _ => rfl, nofun⟩

end Sys2Proof.Machine
end

section
/-! PROOFS. The obligations of the family other about the registers: O25, O28, O30, O32. -/

namespace Sys2Proof.Machine

/-- Settles O25: bit by bit, and the code of each cause. -/
theorem statusReadsItsFields : Obligations.StatusReadsItsFields := by
  intro s
  refine ⟨Status.word_getLsbD _ 0, Status.word_getLsbD _ 1, Status.word_getLsbD _ 2, Status.word_getLsbD _ 3,
    Status.word_shift_eight _, ?_⟩
  rw [regRead, Status.word_cause]
  cases s.status.cause <;> rfl

/-- Settles O28: each write is an update of its register, which a read returns. -/
theorem writableRegistersTakeTheirValue : Obligations.WritableRegistersTakeTheirValue :=
  fun _ v => ⟨rfl, ctrlWord_irqEnOfWrite v, rfl, rfl, rfl, rfl, rfl, rfl, rfl, rfl, rfl⟩

/-- Settles O30: the register values are those after a reset, which leaves this state as it is. -/
theorem resetStateHasTheResetValues : Obligations.ResetStateHasTheResetValues :=
  ⟨fun p => ⟨registerWindow_init p, rfl, rfl, rfl⟩, rfl⟩

/-- Settles O32: an empty memory is in canonical form, and the block is IDLE with cause OK and FAULT_ADDR 0. -/
theorem invariantHoldsAtReset : Obligations.InvariantHoldsAtReset := ⟨inv_init Params.default, inv_init⟩

end Sys2Proof.Machine
end

section
/-! SUPPORT. Fetches as sums of bytes, rotations bit by bit, and the odd length multiplier (20_memory.md R53, R54;
40_primitives.md R102, R103, R117). -/

namespace Sys2Proof.Machine

/-- A byte shifted into its place in a word weighs its value times a power of two. -/
theorem setWidth_shiftLeft_toNat {w k : Nat} (b : Byte) (hk : k + 8 ≤ w) :
    (b.setWidth w <<< k).toNat = 2 ^ k * b.toNat := by
  have hb : b.toNat < 2 ^ 8 := b.isLt
  have hlt : 2 ^ k * b.toNat < 2 ^ w := calc
    2 ^ k * b.toNat < 2 ^ k * 2 ^ 8 := by gcongr
    _ = 2 ^ (k + 8) := (Nat.pow_add 2 k 8).symm
    _ ≤ 2 ^ w := Nat.pow_le_pow_right (by omega) hk
  have hw : b.toNat < 2 ^ w := hb.trans_le (Nat.pow_le_pow_right (by omega) (by omega))
  rw [BitVec.toNat_shiftLeft, BitVec.toNat_setWidth, Nat.mod_eq_of_lt hw, Nat.shiftLeft_eq, Nat.mul_comm,
    Nat.mod_eq_of_lt hlt]

/-- `Fetch64` is the sum of its eight bytes, the lowest address least significant (20_memory.md R54). -/
theorem View.fetch64_toNat (s : View) (p : Nat) :
    (s.fetch64 p).toNat =
      (s.byte p).toNat + 2 ^ 8 * (s.byte (p + 1)).toNat + 2 ^ 16 * (s.byte (p + 2)).toNat +
        2 ^ 24 * (s.byte (p + 3)).toNat + 2 ^ 32 * (s.byte (p + 4)).toNat + 2 ^ 40 * (s.byte (p + 5)).toNat +
        2 ^ 48 * (s.byte (p + 6)).toNat + 2 ^ 56 * (s.byte (p + 7)).toNat := by
  have hlt : ∀ q, (s.byte q).toNat < 256 := fun q => (s.byte q).isLt
  have h0 := hlt p; have h1 := hlt (p + 1); have h2 := hlt (p + 2); have h3 := hlt (p + 3)
  have h4 := hlt (p + 4); have h5 := hlt (p + 5); have h6 := hlt (p + 6); have h7 := hlt (p + 7)
  simp only [View.fetch64, BitVec.toNat_add, setWidth_shiftLeft_toNat, Nat.reduceAdd, Nat.reduceLeDiff,
    BitVec.toNat_setWidth]
  omega

/-- `Fetch32` is the sum of its four bytes, the lowest address least significant (20_memory.md R53): each or adds a byte above
the bits so far. -/
theorem View.fetch32_toNat (s : View) (p : Nat) :
    (s.fetch32 p).toNat =
      (s.byte p).toNat + 2 ^ 8 * (s.byte (p + 1)).toNat + 2 ^ 16 * (s.byte (p + 2)).toNat +
        2 ^ 24 * (s.byte (p + 3)).toNat := by
  have hlt : ∀ q, (s.byte q).toNat < 2 ^ 8 := fun q => (s.byte q).isLt
  have h0 := hlt p; have h1 := hlt (p + 1); have h2 := hlt (p + 2); have h3 := hlt (p + 3)
  have or_eq_add : ∀ {k x y : Nat}, x < 2 ^ k → x ||| 2 ^ k * y = x + 2 ^ k * y := fun h => by
    rw [Nat.or_comm, ← Nat.two_pow_add_eq_or_of_lt h, Nat.add_comm]
  simp only [View.fetch32, BitVec.toNat_or, setWidth_shiftLeft_toNat, Nat.reduceAdd, Nat.reduceLeDiff,
    BitVec.toNat_setWidth]
  rw [Nat.mod_eq_of_lt (by omega), or_eq_add h0, or_eq_add (k := 16) (by omega), or_eq_add (k := 24) (by omega)]

/-- The two halves of a rotation together hold each bit once. -/
theorem getLsbD_ushiftRight_or_shiftLeft {w r i : Nat} (v : BitVec w) (hr : r < w) (hi : i < w) :
    ((v >>> r) ||| (v <<< (w - r))).getLsbD i = v.getLsbD ((i + r) % w) := by
  simp only [BitVec.getLsbD_or, BitVec.getLsbD_ushiftRight, BitVec.getLsbD_shiftLeft, hi, decide_true, Bool.true_and]
  by_cases hwrap : i + r < w
  · simp [Nat.mod_eq_of_lt hwrap, Nat.add_comm r i, show i < w - r by omega]
  · have hmod : (i + r) % w = i - (w - r) := by
      rw [Nat.mod_eq_sub_mod (by omega), Nat.mod_eq_of_lt (by omega)]; omega
    simp [hmod, BitVec.getLsbD_of_ge v (r + i) (by omega), show ¬ i < w - r by omega]

/-- The multiplier is an odd constant plus an even number (40_primitives.md R117). -/
theorem mulLen_odd (n : Word64) : (mulLen n).getLsbD 0 = true := by
  have hodd : (mulLen n).toNat % 2 = 1 := by
    simp only [mulLen, k2, BitVec.ofNat_eq_ofNat, BitVec.toNat_add, BitVec.toNat_mul, BitVec.toNat_ofNat]
    omega
  simpa [BitVec.getLsbD, Nat.testBit_zero] using hodd

/-- `HashLen16` is the multiplier form with `kMul` (40_primitives.md R115, R116). -/
theorem hashLen16_eq_hashLen16m (u v : Word64) : hashLen16 u v = hashLen16m u v kMul := rfl

theorem hashLen16m_zero (mul : Word64) : hashLen16m 0 0 mul = 0 := by
  simp [hashLen16m]

end Sys2Proof.Machine
end

section
/-! PROOFS. The obligations of the family other about the primitives: O44, O45, O47. -/

namespace Sys2Proof.Machine

/-- Settles O44: both fetches as sums, the four low bytes of the one those of the other. -/
theorem fetchesAreLittleEndian : Obligations.FetchesAreLittleEndian := by
  intro s p
  refine ⟨View.fetch32_toNat s p, View.fetch64_toNat s p, BitVec.eq_of_toNat_eq ?_⟩
  have h32 := (s.fetch32 p).isLt
  rw [BitVec.toNat_setWidth, View.fetch64_toNat]
  rw [View.fetch32_toNat] at h32 ⊢
  omega

/-- Settles O45: an amount of 0 is the special case, any other the two halves of the rotation. -/
theorem rotationsAreRightRotations : Obligations.RotationsAreRightRotations := by
  refine ⟨fun v r hr i hi => ?_, fun v r hr i hi => ?_, fun _ => rfl, fun _ => rfl⟩
  · rw [rotr32]
    split
    · next h0 => rw [h0, Nat.add_zero, Nat.mod_eq_of_lt hi]
    · exact getLsbD_ushiftRight_or_shiftLeft v hr hi
  · rw [rotr64]
    split
    · next h0 => rw [h0, Nat.add_zero, Nat.mod_eq_of_lt hi]
    · exact getLsbD_ushiftRight_or_shiftLeft v hr hi

/-- Settles O47: the combiners' small lemmas. -/
theorem combinerIdentities : Obligations.CombinerIdentities :=
  ⟨hash128to64_zero, hash128to64_self, fun u v => ⟨hashLen16_eq_hashLen16m u v, rfl⟩, hashLen16m_zero, mulLen_odd⟩

end Sys2Proof.Machine
end

section
/-! SUPPORT. Each regime and loop of the hashes on two views with the same bytes (20_memory.md R56): every fetch is inside. -/

namespace Sys2Proof.Machine

section
variable {s t : View} (h : s.bytes = t.bytes)
include h

theorem hash32Len0to4_congr : hash32Len0to4 s = hash32Len0to4 t := by
  simp only [hash32Len0to4, h, View.n32_congr h]

theorem hash32Len5to12_congr (lo : 5 ≤ s.len) (hi : s.len ≤ 12) : hash32Len5to12 s = hash32Len5to12 t := by
  have hmid : ((s.len >>> 1) &&& 4) + 4 ≤ s.len := by
    generalize s.len = n at lo hi
    interval_cases n <;> decide
  simp only [hash32Len5to12, ← View.len_congr h, View.n32_congr h, View.fetch32_congr h (by omega : 0 + 4 ≤ s.len),
    View.fetch32_congr h (by omega : s.len - 4 + 4 ≤ s.len), View.fetch32_congr h hmid]

theorem hash32Len13to24_congr (lo : 13 ≤ s.len) : hash32Len13to24 s = hash32Len13to24 t := by
  have hhalf : s.len >>> 1 = s.len / 2 := Nat.shiftRight_one _
  simp only [hash32Len13to24, ← View.len_congr h, View.n32_congr h, hhalf,
    View.fetch32_congr h (by omega : s.len / 2 - 4 + 4 ≤ s.len), View.fetch32_congr h (by omega : 4 + 4 ≤ s.len),
    View.fetch32_congr h (by omega : s.len - 8 + 4 ≤ s.len), View.fetch32_congr h (by omega : s.len / 2 + 4 ≤ s.len),
    View.fetch32_congr h (by omega : 0 + 4 ≤ s.len), View.fetch32_congr h (by omega : s.len - 4 + 4 ≤ s.len)]

theorem hash32LongSeed_congr (lo : 20 ≤ s.len) : hash32LongSeed s = hash32LongSeed t := by
  simp only [hash32LongSeed, ← View.len_congr h, View.n32_congr h,
    View.fetch32_congr h (by omega : s.len - 4 + 4 ≤ s.len), View.fetch32_congr h (by omega : s.len - 8 + 4 ≤ s.len),
    View.fetch32_congr h (by omega : s.len - 16 + 4 ≤ s.len), View.fetch32_congr h (by omega : s.len - 12 + 4 ≤ s.len),
    View.fetch32_congr h (by omega : s.len - 20 + 4 ≤ s.len)]

theorem hash32Chunk_congr {p : Nat} {acc : Acc32} (hp : p + 20 ≤ s.len) :
    hash32Chunk s p acc = hash32Chunk t p acc := by
  simp only [hash32Chunk, View.fetch32_congr h (by omega : p + 4 ≤ s.len),
    View.fetch32_congr h (by omega : p + 4 + 4 ≤ s.len), View.fetch32_congr h (by omega : p + 8 + 4 ≤ s.len),
    View.fetch32_congr h (by omega : p + 12 + 4 ≤ s.len), View.fetch32_congr h (by omega : p + 16 + 4 ≤ s.len)]

theorem hash32Loop_congr {n : Nat} {acc : Acc32} (hn : 20 * n ≤ s.len) : hash32Loop s n acc = hash32Loop t n acc := by
  induction n with
  | zero => rfl
  | succ n ih => rw [hash32Loop_succ, hash32Loop_succ, ih (by omega), hash32Chunk_congr h (by omega)]

theorem hash32Long_congr (lo : 20 ≤ s.len) : hash32Long s = hash32Long t := by
  rw [hash32Long, hash32Long, ← View.len_congr h, hash32LongSeed_congr h lo, hash32Loop_congr h (by omega)]

theorem cityHash32_congr : cityHash32 s = cityHash32 t := by
  have hlen := View.len_congr h
  rcases Nat.lt_or_ge s.len 5 with h5 | h5
  · rw [cityHash32_of_len_le_4 (by omega), cityHash32_of_len_le_4 (by omega), hash32Len0to4_congr h]
  rcases Nat.lt_or_ge s.len 13 with h13 | h13
  · rw [cityHash32_of_len_5_to_12 h5 (by omega), cityHash32_of_len_5_to_12 (by omega) (by omega),
      hash32Len5to12_congr h h5 (by omega)]
  rcases Nat.lt_or_ge s.len 25 with h25 | h25
  · rw [cityHash32_of_len_13_to_24 h13 (by omega), cityHash32_of_len_13_to_24 (by omega) (by omega),
      hash32Len13to24_congr h h13]
  · rw [cityHash32_of_25_le_len h25, cityHash32_of_25_le_len (by omega), hash32Long_congr h (by omega)]

theorem hashLen17to32_congr (lo : 17 ≤ s.len) : hashLen17to32 s = hashLen17to32 t := by
  simp only [hashLen17to32, ← View.len_congr h, View.len64_congr h, View.fetch64_congr h (by omega : 0 + 8 ≤ s.len),
    View.fetch64_congr h (by omega : 8 + 8 ≤ s.len), View.fetch64_congr h (by omega : s.len - 8 + 8 ≤ s.len),
    View.fetch64_congr h (by omega : s.len - 16 + 8 ≤ s.len)]

theorem hashLen33to64_congr (lo : 33 ≤ s.len) : hashLen33to64 s = hashLen33to64 t := by
  simp only [hashLen33to64, ← View.len_congr h, View.len64_congr h, View.fetch64_congr h (by omega : 0 + 8 ≤ s.len),
    View.fetch64_congr h (by omega : 8 + 8 ≤ s.len), View.fetch64_congr h (by omega : 16 + 8 ≤ s.len),
    View.fetch64_congr h (by omega : 24 + 8 ≤ s.len), View.fetch64_congr h (by omega : s.len - 8 + 8 ≤ s.len),
    View.fetch64_congr h (by omega : s.len - 16 + 8 ≤ s.len), View.fetch64_congr h (by omega : s.len - 24 + 8 ≤ s.len),
    View.fetch64_congr h (by omega : s.len - 32 + 8 ≤ s.len)]

theorem hash64LongSeed_congr (lo : 64 ≤ s.len) : hash64LongSeed s = hash64LongSeed t := by
  simp only [hash64LongSeed, ← View.len_congr h, View.len64_congr h, View.fetch64_congr h (by omega : 0 + 8 ≤ s.len),
    View.fetch64_congr h (by omega : s.len - 40 + 8 ≤ s.len), View.fetch64_congr h (by omega : s.len - 16 + 8 ≤ s.len),
    View.fetch64_congr h (by omega : s.len - 56 + 8 ≤ s.len), View.fetch64_congr h (by omega : s.len - 48 + 8 ≤ s.len),
    View.fetch64_congr h (by omega : s.len - 24 + 8 ≤ s.len), weakS_congr h (by omega : s.len - 64 + 32 ≤ s.len),
    weakS_congr h (by omega : s.len - 32 + 32 ≤ s.len)]

theorem hash64Long_congr (lo : 64 ≤ s.len) : hash64Long s = hash64Long t := by
  rw [hash64Long, hash64Long, ← View.len_congr h, hash64LongSeed_congr h lo, step64Loop_congr h (by omega)]

theorem cityHash64_congr : cityHash64 s = cityHash64 t := by
  have hlen := View.len_congr h
  rcases Nat.lt_or_ge s.len 17 with h17 | h17
  · rw [cityHash64_of_len_le_16 (by omega), cityHash64_of_len_le_16 (by omega), hashLen0to16_congr h]
  rcases Nat.lt_or_ge s.len 33 with h33 | h33
  · rw [cityHash64_of_len_17_to_32 h17 (by omega), cityHash64_of_len_17_to_32 (by omega) (by omega),
      hashLen17to32_congr h h17]
  rcases Nat.lt_or_ge s.len 65 with h65 | h65
  · rw [cityHash64_of_len_33_to_64 h33 (by omega), cityHash64_of_len_33_to_64 (by omega) (by omega),
      hashLen33to64_congr h h33]
  · rw [cityHash64_of_65_le_len h65, cityHash64_of_65_le_len (by omega), hash64Long_congr h (by omega)]

theorem murmurShort_congr (seed : Pair) : murmurShort s seed = murmurShort t seed := by
  have hfetch : ∀ c : Word64, (if 8 ≤ s.len then s.fetch64 0 else c) = if 8 ≤ s.len then t.fetch64 0 else c := by
    intro c
    split
    · exact View.fetch64_congr h (by omega)
    · rfl
  simp only [murmurShort, ← View.len_congr h, hashLen0to16_congr h, hfetch]

theorem murmurSeed_congr (lo : 16 ≤ s.len) (seed : Pair) : murmurSeed s seed = murmurSeed t seed := by
  simp only [murmurSeed, ← View.len_congr h, View.len64_congr h,
    View.fetch64_congr h (by omega : s.len - 8 + 8 ≤ s.len), View.fetch64_congr h (by omega : s.len - 16 + 8 ≤ s.len)]

theorem murmurStep_congr {p : Nat} {acc : MurmurAcc} (hp : p + 16 ≤ s.len) :
    murmurStep s p acc = murmurStep t p acc := by
  simp only [murmurStep, View.fetch64_congr h (by omega : p + 8 ≤ s.len),
    View.fetch64_congr h (by omega : p + 8 + 8 ≤ s.len)]

theorem murmurLoop_congr {n : Nat} {acc : MurmurAcc} (hn : 16 * n ≤ s.len) :
    murmurLoop s n acc = murmurLoop t n acc := by
  induction n with
  | zero => rfl
  | succ n ih => rw [murmurLoop_succ, murmurLoop_succ, ih (by omega), murmurStep_congr h (by omega)]

theorem cityMurmur_congr (seed : Pair) : cityMurmur s seed = cityMurmur t seed := by
  rw [cityMurmur, cityMurmur, ← View.len_congr h]
  split
  · rw [murmurShort_congr h]
  · rw [murmurSeed_congr h (by omega), murmurLoop_congr h (by omega)]

theorem hash128LongSeed_congr (lo : 96 ≤ s.len) (seed : Pair) : hash128LongSeed s seed = hash128LongSeed t seed := by
  simp only [hash128LongSeed, View.len64_congr h, View.fetch64_congr h (by omega : 0 + 8 ≤ s.len),
    View.fetch64_congr h (by omega : 8 + 8 ≤ s.len), View.fetch64_congr h (by omega : 88 + 8 ≤ s.len)]

theorem hash128TailStep_congr {q : Nat} {acc : Acc64} (hq : q + 32 ≤ s.len) :
    hash128TailStep s q acc = hash128TailStep t q acc := by
  simp only [hash128TailStep, View.fetch64_congr h (by omega : q + 8 ≤ s.len),
    View.fetch64_congr h (by omega : q + 16 + 8 ≤ s.len), weakS_congr h hq]

theorem hash128TailLoop_congr {n : Nat} {acc : Acc64} (hn : 32 * n ≤ s.len) :
    hash128TailLoop s n acc = hash128TailLoop t n acc := by
  induction n with
  | zero => rfl
  | succ n ih =>
    rw [hash128TailLoop_succ, hash128TailLoop_succ, ← View.len_congr h, ih (by omega),
      hash128TailStep_congr h (by omega)]

theorem hash128Long_congr (lo : 128 ≤ s.len) (seed : Pair) : hash128Long s seed = hash128Long t seed := by
  rw [hash128Long, hash128Long, hash128MainLoop, hash128MainLoop, ← View.len_congr h,
    hash128LongSeed_congr h (by omega), step64Loop_congr h (by omega), hash128TailLoop_congr h (by omega)]

theorem cityHash128WithSeed_congr (seed : Pair) : cityHash128WithSeed s seed = cityHash128WithSeed t seed := by
  rw [cityHash128WithSeed, cityHash128WithSeed, ← View.len_congr h]
  split
  · exact cityMurmur_congr h seed
  · exact hash128Long_congr h (by omega) seed

end

/-- The unseeded hash takes its seed from the view's first 16 bytes and hashes the rest, if there are as many. -/
theorem cityHash128_congr {s t : View} (h : s.bytes = t.bytes) : cityHash128 s = cityHash128 t := by
  have hdrop : (s.drop 16).bytes = (t.drop 16).bytes := by rw [View.drop_bytes, View.drop_bytes, h]
  rw [cityHash128, cityHash128, ← View.len_congr h]
  split
  · rw [View.fetch64_congr h (by omega), View.fetch64_congr h (by omega), cityHash128WithSeed_congr hdrop]
  · exact cityHash128WithSeed_congr h _

end Sys2Proof.Machine
end

section
/-! SUPPORT. The candidate for `CRC256` on two views with the same bytes (45_crc.md R236, R239): the byte offset of each stage
keeps its chunk inside the view. -/

namespace Sys2Proof.Machine

section
variable {s t : View} (h : s.bytes = t.bytes)
include h

theorem crcSeed_congr (lo : 192 ≤ s.len) (n seed : Word64) : crcSeed s n seed = crcSeed t n seed := by
  simp only [crcSeed, View.fetch64_congr h (by omega : 96 + 8 ≤ s.len),
    View.fetch64_congr h (by omega : 120 + 8 ≤ s.len), View.fetch64_congr h (by omega : 56 + 8 ≤ s.len),
    View.fetch64_congr h (by omega : 184 + 8 ≤ s.len)]

theorem crcPasses_congr {n : Nat} {a : CrcAcc} (hn : a.p + 240 * n ≤ s.len) : crcPasses s n a = crcPasses t n a := by
  induction n with
  | zero => rfl
  | succ n ih =>
    have hp := crcPasses_p t n a
    rw [crcPasses_succ, crcPasses_succ, ih (by omega), crcPass_congr h (by omega)]

theorem crcRemainder_congr {n : Nat} {a : CrcAcc} (hn : a.p + 40 * n ≤ s.len) :
    crcRemainder s n a = crcRemainder t n a := by
  induction n with
  | zero => rfl
  | succ n ih =>
    have hp := crcRemainder_p t n a
    rw [crcRemainder_succ, crcRemainder_succ, ih (by omega), crcChunk_congr h (by omega)]

theorem crcPartial_congr {rem : Nat} {a : CrcAcc} (lo : 40 ≤ a.p + rem) (hn : a.p + rem ≤ s.len) :
    crcPartial s rem a = crcPartial t rem a := by
  have hp : ({ a with p := a.p + rem - 40 } : CrcAcc).p + 40 ≤ s.len := by
    show a.p + rem - 40 + 40 ≤ s.len
    omega
  rw [crcPartial, crcPartial, crcChunk_congr h hp]

/-- The passes, the whole chunks of the remainder and the chunk after them together take the first `n` bytes. -/
theorem crc256Long_congr {n : Nat} (lo : 240 ≤ n) (hn : n ≤ s.len) (seed : Word64) :
    crc256Long s n seed = crc256Long t n seed := by
  have hpasses := crcPasses_p t (n / 240) (crcSeed t (BitVec.ofNat 64 n) seed)
  have hremainder := crcRemainder_p t ((n - n / 240 * 240) / 40)
    (crcPasses t (n / 240) (crcSeed t (BitVec.ofNat 64 n) seed))
  have hseed : (crcSeed t (BitVec.ofNat 64 n) seed).p = 0 := rfl
  simp only [crc256Long]
  rw [crcSeed_congr h (by omega), crcPasses_congr h (by omega), crcRemainder_congr h (by omega),
    crcPartial_congr h (by omega) (by omega)]

/-- The short form runs on a padded copy, which is one of the bytes alone (R237). -/
theorem crc256Short_congr (hi : s.len ≤ 240) : crc256Short s = crc256Short t := by
  have hbuf : s.bytes ++ List.replicate (240 - s.len) 0 = t.bytes ++ List.replicate (240 - t.len) 0 := by
    rw [h, View.len_congr h]
  have hlen : 240 ≤ (s.bytes ++ List.replicate (240 - s.len) 0).length := by
    have hs : s.bytes.length = s.len := rfl
    rw [List.length_append, List.length_replicate]
    omega
  simp only [crc256Short, View.n32_congr h]
  exact crc256Long_congr (s := { s with bytes := s.bytes ++ List.replicate (240 - s.len) 0 }) hbuf (Nat.le_refl 240)
    hlen _

theorem crc256Candidate_congr : crc256Candidate s = crc256Candidate t := by
  rw [crc256Candidate, crc256Candidate, ← View.len_congr h]
  split
  · next lo => exact crc256Long_congr h lo (Nat.le_refl _) 0
  · exact crc256Short_congr h (by omega)

end

end Sys2Proof.Machine
end

section
/-! PROOFS. The obligations of the family other that no byte outside the view has a part in a hash: O48, O49, O50, O51. -/

namespace Sys2Proof.Machine

/-- Settles O48, regime by regime. -/
theorem hash32FetchesStayInsideTheView : Obligations.Hash32FetchesStayInsideTheView := fun _ _ h => cityHash32_congr h

/-- Settles O49, regime by regime. -/
theorem hash64FetchesStayInsideTheView : Obligations.Hash64FetchesStayInsideTheView := fun _ _ h => cityHash64_congr h

/-- Settles O50, for both forms. -/
theorem hash128FetchesStayInsideTheView : Obligations.Hash128FetchesStayInsideTheView :=
  fun _ _ seed h => ⟨cityHash128_congr h, cityHash128WithSeed_congr h seed⟩

/-- Settles O51, for the long and the padded form. -/
theorem crcCandidateFetchesStayInsideTheView : Obligations.CrcCandidateFetchesStayInsideTheView :=
  fun _ _ h => crc256Candidate_congr h

end Sys2Proof.Machine
end

section
/-! SUPPORT. The loops as folds over their chunks' numbers (41_hash32.md R146, 42_hash64.md R166, 43_hash128.md R194, R196,
R198). -/

namespace Sys2Proof.Machine

theorem hash32Loop_eq_foldl (s : View) (n : Nat) (acc : Acc32) :
    hash32Loop s n acc = (List.range n).foldl (fun acc i => hash32Chunk s (20 * i) acc) acc := by
  induction n with
  | zero => rfl
  | succ n ih => rw [hash32Loop_succ, ih, List.range_succ, List.foldl_append]; rfl

theorem step64Loop_eq_foldl (s : View) (n : Nat) (acc : Acc64) :
    step64Loop s n acc = (List.range n).foldl (fun acc i => step64 s (64 * i) acc) acc := by
  induction n with
  | zero => rfl
  | succ n ih => rw [step64Loop_succ, ih, List.range_succ, List.foldl_append]; rfl

theorem murmurLoop_eq_foldl (s : View) (n : Nat) (acc : MurmurAcc) :
    murmurLoop s n acc = (List.range n).foldl (fun acc i => murmurStep s (16 * i) acc) acc := by
  induction n with
  | zero => rfl
  | succ n ih => rw [murmurLoop_succ, ih, List.range_succ, List.foldl_append]; rfl

theorem hash128TailLoop_eq_foldl (s : View) (n : Nat) (acc : Acc64) :
    hash128TailLoop s n acc =
      (List.range n).foldl (fun acc j => hash128TailStep s (s.len - (32 * j + 32)) acc) acc := by
  induction n with
  | zero => rfl
  | succ n ih => rw [hash128TailLoop_succ, ih, List.range_succ, List.foldl_append]; rfl

/-- A pass of the 128-bit main loop is two steps on consecutive 64-byte chunks (R196). -/
theorem step64Loop_two_mul_eq_foldl (s : View) (n : Nat) (acc : Acc64) :
    step64Loop s (2 * n) acc =
      (List.range n).foldl (fun acc i => step64 s (128 * i + 64) (step64 s (128 * i) acc)) acc := by
  induction n with
  | zero => rfl
  | succ n ih =>
    rw [show 2 * (n + 1) = 2 * n + 1 + 1 by omega, step64Loop_succ, step64Loop_succ, ih, List.range_succ,
      List.foldl_append, show 64 * (2 * n + 1) = 128 * n + 64 by omega, show 64 * (2 * n) = 128 * n by omega]
    rfl

end Sys2Proof.Machine
end

section
/-! SUPPORT. The CRC step over exclusive or, and the hashes of a one-byte view (45_crc.md R231; 41_hash32.md R142,
42_hash64.md R161). -/

namespace Sys2Proof.Machine

/-- A bit step shifts, and adds the polynomial if the low bit is set. -/
theorem crcBit_eq (c : Word32) : crcBit c = c >>> 1 ^^^ (if c.getLsbD 0 then crcPoly else 0) := by
  unfold crcBit
  split
  · rfl
  · exact BitVec.xor_zero.symm

/-- A bit step is linear: two polynomials added cancel. -/
theorem crcBit_xor (c d : Word32) : crcBit (c ^^^ d) = crcBit c ^^^ crcBit d := by
  have hpoly : (if (c ^^^ d).getLsbD 0 then crcPoly else 0) =
      (if c.getLsbD 0 then crcPoly else 0) ^^^ (if d.getLsbD 0 then crcPoly else 0) := by
    rw [BitVec.getLsbD_xor]
    cases c.getLsbD 0 <;> cases d.getLsbD 0 <;> decide
  rw [crcBit_eq, crcBit_eq, crcBit_eq, hpoly, BitVec.ushiftRight_xor_distrib]
  ac_rfl

theorem crcByte_xor (c d : Word32) (a b : Byte) : crcByte (c ^^^ d) (a ^^^ b) = crcByte c a ^^^ crcByte d b := by
  have hmix : c ^^^ d ^^^ (a ^^^ b).setWidth 32 = (c ^^^ a.setWidth 32) ^^^ (d ^^^ b.setWidth 32) := by
    rw [BitVec.setWidth_xor]
    ac_rfl
  simp only [crcByte, hmix, crcBit_xor]

/-- The whole step is linear, byte by byte. -/
theorem crc32cU64_xor (c d v w : Word64) : crc32cU64 (c ^^^ d) (v ^^^ w) = crc32cU64 c v ^^^ crc32cU64 d w := by
  simp only [crc32cU64, BitVec.setWidth_xor, BitVec.extractLsb'_xor, crcByte_xor]

/-- The step starts from the low 32 bits of the running value. -/
theorem crc32cU64_low (c v : Word64) : crc32cU64 c v = crc32cU64 (c &&& 0xffffffff) v := by
  have hlow : (c &&& 0xffffffff).setWidth 32 = c.setWidth 32 := by
    have hmask : (0xffffffff : Word64).setWidth 32 = BitVec.allOnes 32 := by decide
    rw [BitVec.setWidth_and, hmask, BitVec.and_allOnes]
  rw [crc32cU64, crc32cU64, hlow]

/-- A word widened from 32 bits has nothing above them. -/
theorem setWidth_ushiftRight (c : Word32) : (c.setWidth 64 : Word64) >>> 32 = 0 := by
  apply BitVec.eq_of_getLsbD_eq
  intro i _
  simp

/-- The 0-to-4 mixer on one byte, read signed (41_hash32.md R142). -/
theorem hash32Len0to4_of_one_byte {s : View} {x : Byte} (h : s.bytes = [x]) :
    hash32Len0to4 s = fmix (mur (x.signExtend 32) (mur 1 (9 ^^^ x.signExtend 32))) := by
  have hn : s.n32 = 1 := by simp [View.n32, View.len64, View.len, h]
  simp [hash32Len0to4, hash32ByteStep, h, hn]

theorem View.byte_of_one_byte {s : View} {x : Byte} (h : s.bytes = [x]) : s.byte 0 = x := by
  simp [View.byte, h]

/-- The 1-to-3 mixer on one byte, read unsigned: neither of its two sums overflows 32 bits (42_hash64.md R161). -/
theorem hashLen0to16_of_one_byte {s : View} {x : Byte} (h : s.bytes = [x]) :
    hashLen0to16 s =
      shiftMix
        (((x.setWidth 64 + (x.setWidth 64 <<< 8)) * k2) ^^^ (((1 : Word64) + (x.setWidth 64 <<< 2)) * k0)) * k2 := by
  have hlen : s.len = 1 := by simp [View.len, h]
  have hn : s.n32 = 1 := by simp [View.n32, View.len64, hlen]
  have hx : x.toNat < 2 ^ 8 := x.isLt
  have hlow : ∀ n, n < 2 ^ 32 → n % 2 ^ 32 = n ∧ n % 2 ^ 64 = n := fun n hn => by omega
  obtain ⟨hx32, hx64⟩ := hlow x.toNat (by omega)
  obtain ⟨hsum32, hsum64⟩ := hlow (x.toNat + 2 ^ 8 * x.toNat) (by omega)
  have hy : (x.setWidth 32 + (x.setWidth 32 <<< 8) : Word32).setWidth 64 =
      (x.setWidth 64 + (x.setWidth 64 <<< 8) : Word64) := by
    apply BitVec.eq_of_toNat_eq
    simp only [BitVec.toNat_setWidth, BitVec.toNat_add, setWidth_shiftLeft_toNat, Nat.reduceAdd, Nat.reduceLeDiff, hx32,
      hx64, hsum32, hsum64]
  have hz : ((1 : Word32) + (x.setWidth 32 <<< 2)).setWidth 64 = (1 : Word64) + (x.setWidth 64 <<< 2) := by
    apply BitVec.eq_of_toNat_eq
    simp only [BitVec.toNat_setWidth, BitVec.toNat_add, setWidth_shiftLeft_toNat, Nat.reduceAdd, Nat.reduceLeDiff,
      BitVec.ofNat_eq_ofNat, BitVec.toNat_ofNat]
    omega
  rw [hashLen0to16_of_len_1_to_3 (by omega) (by omega), hlen, hn]
  simp only [Nat.reduceShiftRight, Nat.sub_self, View.byte_of_one_byte h, hy, hz]

end Sys2Proof.Machine
end

section
/-! PROOFS. The obligations of the family other about the loops, one byte and the CRC step: O52, O56, O57. -/

namespace Sys2Proof.Machine

/-- Settles O52: each loop is its fold, and `len mod 128` is what the passes leave. -/
theorem loopsRunTheirChunksInOrder : Obligations.LoopsRunTheirChunksInOrder := by
  refine ⟨fun s => ?_, fun s => ?_, fun s seed hlen => ?_, fun s seed => ?_⟩
  · rw [hash32Long, hash32Loop_eq_foldl]
  · rw [hash64Long, step64Loop_eq_foldl]
  · rw [cityMurmur, if_neg (by omega), murmurLoop_eq_foldl]
  · have hrest : s.len % 128 = s.len - 128 * (s.len / 128) := by omega
    rw [hash128Long, hash128MainLoop, step64Loop_two_mul_eq_foldl, hash128TailLoop_eq_foldl, hrest]

/-- Settles O57: linear in both arguments, with the examples by evaluation. -/
theorem crcStepIsALinear32BitStep : Obligations.CrcStepIsALinear32BitStep := by
  refine ⟨fun c v => ⟨crc32cU64_low c v, setWidth_ushiftRight _⟩, crc32cU64_xor, ?zero, ?ones, ?one, ?word, ?check⟩
  case zero => decide +kernel
  case ones => decide +kernel
  case one => decide +kernel
  case word => decide +kernel
  case check => decide +kernel

/-- Settles O56: one byte is in the shortest regime of each hash. -/
theorem oneByteIsSignedIn32AndUnsignedIn64 : Obligations.OneByteIsSignedIn32AndUnsignedIn64 := by
  intro s x h
  have hlen : s.len = 1 := by simp [View.len, h]
  exact ⟨(cityHash32_of_len_le_4 (by omega)).trans (hash32Len0to4_of_one_byte h),
    (cityHash64_of_len_le_16 (by omega)).trans (hashLen0to16_of_one_byte h)⟩

end Sys2Proof.Machine
end

section
/-! PROOFS. The obligation of the family other about the vectors of 95_test_vectors.md: O59. -/

namespace Sys2Proof.Machine

theorem countingInput_len (n : Nat) : (countingInput n).len = n := by
  simp [countingInput, View.len]

/-- The row of section 2.8 at 900 bytes, the longest one evaluated. -/
theorem cityHash128_countingInput_900 : cityHash128 (countingInput 900) = ⟨0x9a49e974e386c795, 0x6d3461afce5e5124⟩ := by
  decide +kernel

/-- Settles O59: each row by evaluation; at 901 bytes the branch takes the words of `CRC256` without evaluating anything. -/
theorem boundaryRowsHaveTheirValues : Obligations.BoundaryRowsHaveTheirValues := by
  refine ⟨?hash32Counting, ?hash32Ones, ?hash64Counting, ?hash64Ones, ?hash128, ?hash128Seed, ?hash128ZeroSeed,
    fun f => ⟨?crc900, ?crc901⟩⟩
  case hash32Counting => decide +kernel
  case hash32Ones => decide +kernel
  case hash64Counting => decide +kernel
  case hash64Ones => decide +kernel
  case hash128 => decide +kernel
  case hash128Seed => decide +kernel
  case hash128ZeroSeed => decide +kernel
  case crc900 =>
    rw [cityHashCrc128_of_len_le_900 f (by rw [countingInput_len]), cityHash128_countingInput_900]
  case crc901 => exact cityHashCrc128_of_900_lt_len f (by rw [countingInput_len]; omega)

end Sys2Proof.Machine
end
